-- ==== Sys2Proof/Word.lean ====
section
/-! DEFINITION. The word types of the IMB codec core (spec/10_state.md, rule R20). -/

namespace Sys2Proof

/-- One byte: an ASCII symbol of `SYM` or a character of a record field (rules R33, R35). -/
abbrev Byte := BitVec 8

/-- One 11-bit limb of the BigNum (rule R25). -/
abbrev Limb := BitVec 11

/-- The ten limbs, most significant first (rules R6, R25). -/
abbrev Limbs := Vector Limb 10

/-- One 13-bit binary word of a codeword (rules R15, R29). -/
abbrev Char13 := BitVec 13

/-- The ten binary words (rule R29). -/
abbrev Words := Vector Char13 10

/-- The ten 11-bit codeword registers (rule R28). -/
abbrev Codewords := Vector (BitVec 11) 10

/-- One decimal digit register, 4 bits (rules R30, R31). -/
abbrev Digit := BitVec 4

/-- One command word, as the host writes it to `CMD` (rules R38, R80). -/
abbrev CmdWord := BitVec 64

end Sys2Proof
end

