-- ==== Sys2Proof/Syntax.lean ====
section
/-! DEFINITION. The 27 commands of the command set IMBC-1 (spec/30_encoding.md, rule R84), one
constructor for each row of spec/opcode_table.json, in the table's order. -/

namespace Sys2Proof

/-- A command, with its operands as the integers that rule R83 reads from the command word. -/
inductive Instr where
  /-- `NOP` (R103). -/
  | nop
  /-- `BN.CLR` (R111). -/
  | bnClr
  /-- `BN.LDLO v` (R112); `v` is the field `a` read as an unsigned number. -/
  | bnLdlo (v : Nat)
  /-- `BN.ISZERO` (R113). -/
  | bnIszero
  /-- `BN.ADD k` (R114); `k` is the field `a` read in two's complement. -/
  | bnAdd (k : Int)
  /-- `BN.MULADD m, a` (R115), both unsigned. -/
  | bnMuladd (m a : Nat)
  /-- `BN.DIVMOD d` (R116); `d` is the field `m`. -/
  | bnDivmod (d : Nat)
  /-- `FCS.CALC` (R131). -/
  | fcsCalc
  /-- `FCS.CHK` (R132). -/
  | fcsChk
  /-- `TBL.ENC i` (R148). -/
  | tblEnc (i : Nat)
  /-- `TBL.DEC w` (R149). -/
  | tblDec (w : Nat)
  /-- `CW.SPLIT` (R204). -/
  | cwSplit
  /-- `CW.MAP` (R205). -/
  | cwMap
  /-- `CW.UNMAP` (R206). -/
  | cwUnmap
  /-- `CW.JOIN` (R207). -/
  | cwJoin
  /-- `SYM.EMIT` (R165). -/
  | symEmit
  /-- `SYM.PARSE` (R166). -/
  | symParse
  /-- `SYM.FLIP` (R167). -/
  | symFlip
  /-- `PAY.VALIDATE` (R182). -/
  | payValidate
  /-- `PAY.PACK` (R183). -/
  | payPack
  /-- `PAY.UNPACK` (R186). -/
  | payUnpack
  /-- `ENCODE` (R221). -/
  | encodeRec
  /-- `DECODE` (R268). -/
  | decodeSym
  /-- `DEC.STRICT` (R233). -/
  | decStrict
  /-- `REP.LEN` (R255). -/
  | repLen
  /-- `REP.FLIP` (R262). -/
  | repFlip
  /-- `DEC.ORIENT` (R265). -/
  | decOrient
  deriving DecidableEq, Repr

end Sys2Proof
end

