-- ==== Sys2Proof/WellFormed.lean ====
section
/-! DEFINITION. Which commands have a command word: every operand fits its field
(spec/30_encoding.md, rules R81 to R83, R86). An operand that fits its field but lies outside the
legal values of rule R83 is well formed; its command faults when it runs. -/

namespace Sys2Proof

/-- `v` fits the 32-bit field `a` as an unsigned number (rule R83, `zext_32`). -/
def fitsA (v : Nat) : Bool := decide (v < 2 ^ 32)

/-- `k` fits the 32-bit field `a` in two's complement (rules R11, R83, `sext_32`). -/
def fitsSignedA (k : Int) : Bool := decide (-2 ^ 31 ≤ k ∧ k < 2 ^ 31)

/-- `v` fits the 20-bit field `m` (rule R83, `zext_20`). -/
def fitsM (v : Nat) : Bool := decide (v < 2 ^ 20)

/-- Every operand of the command fits the field it is read from. -/
def wellFormed : Instr → Bool
  | .nop => true
  | .bnClr => true
  | .bnLdlo v => fitsA v
  | .bnIszero => true
  | .bnAdd k => fitsSignedA k
  | .bnMuladd m a => fitsM m && fitsA a
  | .bnDivmod d => fitsM d
  | .fcsCalc => true
  | .fcsChk => true
  | .tblEnc i => fitsA i
  | .tblDec w => fitsA w
  | .cwSplit => true
  | .cwMap => true
  | .cwUnmap => true
  | .cwJoin => true
  | .symEmit => true
  | .symParse => true
  | .symFlip => true
  | .payValidate => true
  | .payPack => true
  | .payUnpack => true
  | .encodeRec => true
  | .decodeSym => true
  | .decStrict => true
  | .repLen => true
  | .repFlip => true
  | .decOrient => true

end Sys2Proof
end

