-- ==== Sys2Proof/Decode.lean ====
section
/-! DEFINITION. The command word: fields, decoder, encoder (spec/30_encoding.md, rules R80 to R86).
The decoder is total: a word is one of the 27 commands or illegal (rule R85), and an illegal word
decodes to `none`. -/

namespace Sys2Proof

/-- The field `op`, bits 63:56 (rule R81). -/
def opField (c : CmdWord) : Nat := (c.extractLsb' 56 8).toNat

/-- The field `z`, bits 55:52, must be 0 (rule R81). -/
def zField (c : CmdWord) : Nat := (c.extractLsb' 52 4).toNat

/-- The field `m`, bits 51:32 (rule R81), read as `zext_20` (rule R83). -/
def mField (c : CmdWord) : Nat := (c.extractLsb' 32 20).toNat

/-- The field `a`, bits 31:0 (rule R81), read as `zext_32` (rule R83). -/
def aField (c : CmdWord) : Nat := (c.extractLsb' 0 32).toNat

/-- `sext_32` of the field `a` (rule R11): the operand `k` of `BN.ADD`. -/
def sext32 (a : Nat) : Int := if a < 2 ^ 31 then (a : Int) else (a : Int) - 2 ^ 32

/-- The four formats of rule R82: which of `m` and `a` the command uses. -/
inductive Format where
  /-- No operand: `m` and `a` must be 0. -/
  | Z
  /-- Operand `a`; `m` must be 0. -/
  | A
  /-- Operand `m`; `a` must be 0. -/
  | M
  /-- Operands `m` and `a`. -/
  | MA
  deriving DecidableEq, Repr

/-- The must-be-zero fields of the format are 0 in the word (rule R85 b, c, d). -/
def zerosHold (f : Format) (c : CmdWord) : Bool :=
  zField c == 0 &&
  match f with
  | .Z => mField c == 0 && aField c == 0
  | .A => mField c == 0
  | .M => aField c == 0
  | .MA => true

/-- The opcode map of rule R84: the format of the opcode and the command that the operand fields
select; `none` for an unassigned opcode (rule R85 a). -/
def opcodeRow (op m a : Nat) : Option (Format × Instr) :=
  match op with
  | 0x00 => some (.Z, .nop)
  | 0x01 => some (.Z, .bnClr)
  | 0x02 => some (.A, .bnLdlo a)
  | 0x03 => some (.Z, .bnIszero)
  | 0x04 => some (.A, .bnAdd (sext32 a))
  | 0x05 => some (.MA, .bnMuladd m a)
  | 0x06 => some (.M, .bnDivmod m)
  | 0x10 => some (.Z, .fcsCalc)
  | 0x11 => some (.Z, .fcsChk)
  | 0x18 => some (.A, .tblEnc a)
  | 0x19 => some (.A, .tblDec a)
  | 0x20 => some (.Z, .cwSplit)
  | 0x21 => some (.Z, .cwMap)
  | 0x22 => some (.Z, .cwUnmap)
  | 0x23 => some (.Z, .cwJoin)
  | 0x28 => some (.Z, .symEmit)
  | 0x29 => some (.Z, .symParse)
  | 0x2A => some (.Z, .symFlip)
  | 0x30 => some (.Z, .payValidate)
  | 0x31 => some (.Z, .payPack)
  | 0x32 => some (.Z, .payUnpack)
  | 0x40 => some (.Z, .encodeRec)
  | 0x48 => some (.Z, .decodeSym)
  | 0x49 => some (.Z, .decStrict)
  | 0x4A => some (.Z, .repLen)
  | 0x4B => some (.Z, .repFlip)
  | 0x4C => some (.Z, .decOrient)
  | _ => none

/-- The command that a command word selects, or `none` when the word is illegal (rule R85). -/
def decode (c : CmdWord) : Option Instr :=
  match opcodeRow (opField c) (mField c) (aField c) with
  | some (f, i) => if zerosHold f c then some i else none
  | none => none

/-- The decoder on a table word of `nbits` bits (bits of `w` above `nbits` are not the
instruction's and read as 0); a value that is no 64-bit word is refused. -/
def decodeTableWord (nbits w : Nat) : Option Instr :=
  if w % 2 ^ nbits < 2 ^ 64 then decode (BitVec.ofNat 64 (w % 2 ^ nbits)) else none

/-- The command word of an opcode and its operand fields (rule R81):
`C = op·2^56 + z·2^52 + m·2^32 + a` with `z = 0`. -/
def assemble (op m a : Nat) : CmdWord := BitVec.ofNat 64 (op * 2 ^ 56 + m * 2 ^ 32 + a)

/-- The opcode of a command (rule R84). -/
def opcodeOf : Instr → Nat
  | .nop => 0x00
  | .bnClr => 0x01
  | .bnLdlo _ => 0x02
  | .bnIszero => 0x03
  | .bnAdd _ => 0x04
  | .bnMuladd _ _ => 0x05
  | .bnDivmod _ => 0x06
  | .fcsCalc => 0x10
  | .fcsChk => 0x11
  | .tblEnc _ => 0x18
  | .tblDec _ => 0x19
  | .cwSplit => 0x20
  | .cwMap => 0x21
  | .cwUnmap => 0x22
  | .cwJoin => 0x23
  | .symEmit => 0x28
  | .symParse => 0x29
  | .symFlip => 0x2A
  | .payValidate => 0x30
  | .payPack => 0x31
  | .payUnpack => 0x32
  | .encodeRec => 0x40
  | .decodeSym => 0x48
  | .decStrict => 0x49
  | .repLen => 0x4A
  | .repFlip => 0x4B
  | .decOrient => 0x4C

/-- The field `m` of a command's word (rules R82, R83). -/
def mOf : Instr → Nat
  | .bnMuladd m _ => m
  | .bnDivmod d => d
  | .nop | .bnClr | .bnLdlo _ | .bnIszero | .bnAdd _ | .fcsCalc | .fcsChk | .tblEnc _
  | .tblDec _ | .cwSplit | .cwMap | .cwUnmap | .cwJoin | .symEmit | .symParse | .symFlip
  | .payValidate | .payPack | .payUnpack | .encodeRec | .decodeSym | .decStrict | .repLen
  | .repFlip | .decOrient => 0

/-- The field `a` of a command's word (rules R82, R83); `k` is stored in two's complement. -/
def aOf : Instr → Nat
  | .bnLdlo v => v
  | .bnAdd k => (BitVec.ofInt 32 k).toNat
  | .bnMuladd _ a => a
  | .tblEnc i => i
  | .tblDec w => w
  | .nop | .bnClr | .bnIszero | .bnDivmod _ | .fcsCalc | .fcsChk | .cwSplit | .cwMap
  | .cwUnmap | .cwJoin | .symEmit | .symParse | .symFlip | .payValidate | .payPack
  | .payUnpack | .encodeRec | .decodeSym | .decStrict | .repLen | .repFlip | .decOrient => 0

/-- The command word of a command (rules R81 to R84). -/
def encode (i : Instr) : CmdWord := assemble (opcodeOf i) (mOf i) (aOf i)

end Sys2Proof
end

