-- ==== Sys2Proof/Config.lean ====
section
/-! DEFINITION. What an implementation fixes and what the spec leaves to any value: the shape of the
configuration parameter `LAYOUT` (spec/44_layout.md, rules R161, R162) and the free values
(spec/93_implementation_defined.md U1, U7). -/

namespace Sys2Proof

/-- BitLayout (rule R161): four tables of 65 entries that say which bit of which word each half of
each symbol position comes from. -/
structure Layout where
  /-- Word of the descender half of a position. -/
  descChar : Vector (Fin 10) 65
  /-- Bit of the descender half of a position. -/
  descBit : Vector (Fin 13) 65
  /-- Word of the ascender half of a position. -/
  ascChar : Vector (Fin 10) 65
  /-- Bit of the ascender half of a position. -/
  ascBit : Vector (Fin 13) 65
  deriving DecidableEq, Repr

/-- The 130 pairs (word, bit) of a layout, descender halves first (rule R162). -/
def Layout.pairs (L : Layout) : List (Fin 10 × Fin 13) :=
  (List.finRange 65).map (fun p => (L.descChar[p], L.descBit[p])) ++
  (List.finRange 65).map (fun p => (L.ascChar[p], L.ascBit[p]))

/-- Rule R162: the 130 pairs are 130 different pairs, so that halves and word bits are in
bijection. The hypothesis of every statement that is about any layout. -/
abbrev Layout.Bijective (L : Layout) : Prop := L.pairs.Nodup

/-- The scratch registers (rule R15's closing paragraph and rule R44): those that hold unspecified values after the
recovery commands (93_implementation_defined.md U7). -/
structure Scratch where
  n : Limbs
  fcs : BitVec 11
  fcsr : BitVec 11
  cw : Codewords
  w : Words
  track : Vector Digit 20
  route : Vector Digit 11
  rpos : BitVec 4
  res : BitVec 32
  deriving DecidableEq, Repr, Inhabited

/-- FREE VALUE (log entry 5): the `N` that a `BN_OVERFLOW` leaves, one for each time an unspecified
value is taken (rule R120; 93_implementation_defined.md U1: any value). -/
opaque Config.freeLimbs : Nat → Limbs

/-- FREE VALUE (log entry 6): the scratch registers that a recovery command leaves, one for each time
an unspecified value is taken (rules R44, R269; 93_implementation_defined.md U7: any value). -/
opaque Config.freeScratch : Nat → Scratch

end Sys2Proof
end

