-- ==== Sys2Proof/Machine/State.lean ====
section
/-! DEFINITION. The state of the IMB codec core: every register of spec/10_state.md rule R20, plain
data, and three fields of the model's own (`host`, `rdata`, `fresh`), marked as such. -/

namespace Sys2Proof.Machine

/-- The register `STATUS` (rule R23), by its fields. The reserved bits 3:2 and 15:13 read as 0 and
have no storage (log entry 15); `Status.word` in Machine/Flags.lean is the 20-bit register. -/
structure Status where
  /-- Bits 1:0: 0 no error, 1 Validation, 2 Decoding. -/
  kind : BitVec 2
  /-- Bits 7:4: the reason code of rule R281 or R282. -/
  reason : BitVec 4
  /-- Bits 11:8: the step that failed, rule R283. -/
  detail : BitVec 4
  /-- Bit 12: 0 clean, 1 damaged. -/
  repair : BitVec 1
  /-- Bits 19:16: the sticky fault code of rule R286. -/
  fault : BitVec 4
  deriving DecidableEq, Repr

/-- One record field (rule R35): up to 15 bytes and their number; absent exactly when `len` is 0. -/
structure RecField where
  /-- `REC.f.LEN`. -/
  len : BitVec 4
  /-- `REC.f.CH[0..14]`. -/
  ch : Vector Byte 15
  deriving DecidableEq, Repr

/-- The seven record fields (rule R35). -/
structure Record where
  bid : RecField
  stc : RecField
  mid : RecField
  ser : RecField
  zip : RecField
  p4 : RecField
  dp : RecField
  deriving DecidableEq, Repr

/-- One action of the host (rules R22, R39, R40, R67, R320). -/
inductive HostAction where
  /-- Write `value` to the register at an index; index 0 is `CMD` and runs a command (rule R38).
  Any number may be written: it is reduced to the element's width (rule R40, log entry 14). -/
  | write (idx : BitVec 10) (value : Nat)
  /-- Read the register at an index (rule R40). -/
  | read (idx : BitVec 10)
  /-- The reset event, between commands (rule R320). -/
  | reset
  deriving DecidableEq, Repr

/-- The whole state (rule R20). `CMD` holds nothing between commands (rule R38), so it has no field. -/
structure State where
  /-- `STATUS` (rule R23). -/
  status : Status
  /-- `RES` (rule R24). -/
  res : BitVec 32
  /-- `N[0..9]`, most significant limb first (rule R25). -/
  n : Limbs
  /-- `FCS` (rule R26). -/
  fcs : BitVec 11
  /-- `FCSR` (rule R27). -/
  fcsr : BitVec 11
  /-- `CW[0..9]` (rule R28). -/
  cw : Codewords
  /-- `W[0..9]` (rule R29). -/
  w : Words
  /-- `TRACK[0..19]` (rule R30). -/
  track : Vector Digit 20
  /-- `ROUTE[0..10]` (rule R31). -/
  route : Vector Digit 11
  /-- `RPOS` (rule R32). -/
  rpos : BitVec 4
  /-- `SYM[0..65]` (rule R33). -/
  sym : Vector Byte 66
  /-- `LEN` (rule R34). -/
  len : BitVec 7
  /-- The seven `REC` fields (rule R35). -/
  record : Record
  /-- `SUG[0..64]` (rule R36). -/
  sug : Vector Byte 65
  /-- `DIFF` (rule R36). -/
  diff : BitVec 65
  /-- `REPINFO`: `MODE` 8:7, `INDEX` 6:0 (rule R37). -/
  repinfo : BitVec 9
  /-- THE MODEL'S OWN, no register: the host's actions still to come, in issue order (rules R22,
  R67; log entry 1). -/
  host : List HostAction
  /-- THE MODEL'S OWN, no register: what the last host read returned (rule R40; log entry 3). -/
  rdata : BitVec 65
  /-- THE MODEL'S OWN, no register: how many unspecified values were taken so far; the argument of
  the free values of Config.lean (log entry 7). -/
  fresh : Nat
  deriving DecidableEq, Repr

/-- Why a step could stop with a fault of the model. There is none: every behaviour of this hardware
is defined or leaves a free value (93_implementation_defined.md Part 1, rule R327), and the
hardware's own faults (rule R286) are next states with a code in `STATUS.FAULT`. Nobody raises a
model fault, which is safe (log entry 16). -/
inductive Fault where
  deriving DecidableEq, Repr

/-- Why a step could be refused. -/
inductive Refusal where
  /-- Raised by `exec` alone, for a command whose meaning is not written; no command is left so.
  Safe: a refused step proves nothing about the hardware. -/
  | notModelled (mnemonic : String)
  deriving DecidableEq, Repr

/-- `STATUS` = 0x00000 (rule R321). -/
def Status.zero : Status := { kind := 0, reason := 0, detail := 0, repair := 0, fault := 0 }

/-- An absent field: `LEN` 0 and every byte 0x00 (rules R35, R186, R321). -/
def RecField.absent : RecField := { len := 0, ch := Vector.replicate 15 0 }

/-- All seven fields absent (rule R321). -/
def Record.absent : Record :=
  { bid := .absent, stc := .absent, mid := .absent, ser := .absent, zip := .absent,
    p4 := .absent, dp := .absent }

/-- The machine right after reset (rules R43, R321): every register element is 0. The model's own
fields: no host action yet, nothing read yet, no free value taken yet (log entries 1, 3, 7). -/
def State.reset : State :=
  { status := .zero
    res := 0
    n := Vector.replicate 10 0
    fcs := 0
    fcsr := 0
    cw := Vector.replicate 10 0
    w := Vector.replicate 10 0
    track := Vector.replicate 20 0
    route := Vector.replicate 11 0
    rpos := 0
    sym := Vector.replicate 66 0
    len := 0
    record := .absent
    sug := Vector.replicate 65 0
    diff := 0
    repinfo := 0
    host := []
    rdata := 0
    fresh := 0 }

end Sys2Proof.Machine
end

