-- ==== Sys2Proof/Machine/Flags.lean ====
section
/-! DEFINITION. The codes and the layout of `STATUS`, the only flag register
(spec/10_state.md rule R23; spec/60_exceptions.md rules R281 to R283, R286). -/

namespace Sys2Proof.Machine

/-- The ten Validation reasons (rule R281). -/
inductive ValReason where
  | zipDigits
  | zipRequired
  | plus4Digits
  | deliveryDigits
  | barcodeDigits
  | barcodeSecond
  | serviceDigits
  | mailerDigits
  | mailerSerial
  | plus4Required
  deriving DecidableEq, Repr

/-- `STATUS.REASON` of a Validation error (rule R281). -/
def ValReason.code : ValReason → BitVec 4
  | .zipDigits => 1
  | .zipRequired => 2
  | .plus4Digits => 3
  | .deliveryDigits => 4
  | .barcodeDigits => 5
  | .barcodeSecond => 6
  | .serviceDigits => 7
  | .mailerDigits => 8
  | .mailerSerial => 9
  | .plus4Required => 10

/-- The four Decoding sub-reasons (rule R282). -/
inductive DecReason where
  | length
  | invalidSymbol
  | upsideDown
  | invalidBarcode
  deriving DecidableEq, Repr

/-- `STATUS.REASON` of a Decoding error (rule R282). -/
def DecReason.code : DecReason → BitVec 4
  | .length => 1
  | .invalidSymbol => 2
  | .upsideDown => 3
  | .invalidBarcode => 4

/-- The steps that can fail (rule R283). -/
inductive Detail where
  | none
  | invalidCodeword
  | range
  | orientation
  | fcsMismatch
  | padding
  | lenRepairFailed
  | noPlausible
  | tooMany
  | noSuccess
  | ambiguous
  deriving DecidableEq, Repr

/-- `STATUS.DETAIL` of a Decoding error (rule R283). -/
def Detail.code : Detail → BitVec 4
  | .none => 0
  | .invalidCodeword => 1
  | .range => 2
  | .orientation => 3
  | .fcsMismatch => 4
  | .padding => 5
  | .lenRepairFailed => 6
  | .noPlausible => 7
  | .tooMany => 8
  | .noSuccess => 9
  | .ambiguous => 10

/-- The four faults of the hardware (rule R286). -/
inductive FaultCode where
  | illegalCmd
  | operandRange
  | bnOverflow
  | divZero
  deriving DecidableEq, Repr

/-- `STATUS.FAULT` (rule R286). -/
def FaultCode.code : FaultCode → BitVec 4
  | .illegalCmd => 1
  | .operandRange => 2
  | .bnOverflow => 3
  | .divZero => 4

/-- `STATUS` as the host reads it, 20 bits (rule R23): `FAULT` 19:16, zeros 15:13, `REPAIR` 12,
`DETAIL` 11:8, `REASON` 7:4, zeros 3:2, `KIND` 1:0. -/
def Status.word (t : Status) : BitVec 20 :=
  t.fault ++ 0#3 ++ t.repair ++ t.detail ++ t.reason ++ 0#2 ++ t.kind

/-- The opening clear of rule R101: `KIND`, `REASON`, `DETAIL`, `REPAIR` become 0, `FAULT` stays. -/
def Status.cleared (t : Status) : Status :=
  { t with kind := 0, reason := 0, detail := 0, repair := 0 }

/-- What `raise Validation(r)` writes to `STATUS` (rule R284). -/
def Status.withValidation (t : Status) (r : ValReason) : Status :=
  { t with kind := 1, reason := r.code }

/-- What `raise Decoding(r, dt)` writes to `STATUS` (rule R285). -/
def Status.withDecoding (t : Status) (r : DecReason) (dt : Detail) : Status :=
  { t with kind := 2, reason := r.code, detail := dt.code }

/-- What `raise Fault(f)` writes to `STATUS` (rule R286). -/
def Status.withFault (t : Status) (f : FaultCode) : Status :=
  { t with fault := f.code }

end Sys2Proof.Machine
end

