-- ==== Sys2Proof/Machine/Ops.lean ====
section
/-! DEFINITION. What every command shares: how pseudocode runs and raises (spec/00_scope.md rules
R12, R13), taking an event (spec/60_exceptions.md rules R284 to R286), the opening clear and the
refusal while faulted (spec/40_system.md rules R100 to R102), the reset event
(spec/70_reset_and_hazards.md rule R320), and the unspecified values (rules R44, R120). -/

namespace Sys2Proof.Machine

/-- The three raises of rule R13. -/
inductive Raise where
  | validation (r : ValReason)
  | decoding (r : DecReason) (dt : Detail)
  | fault (f : FaultCode)
  deriving DecidableEq, Repr

/-- How a piece of pseudocode ends: at its last statement, or at its first `raise`; either way with
the registers as written so far (rules R12, R284, R285). -/
inductive Run where
  | ok (s : State)
  | raised (e : Raise) (s : State)
  deriving DecidableEq, Repr

/-- Statement order and plain `call`: go on with `f`, unless a `raise` has ended the command
(rule R13, `call`). -/
def Run.andThen (r : Run) (f : State → Run) : Run :=
  match r with
  | .ok s => f s
  | .raised e s => .raised e s

/-- `try call` (rule R13): a caught Validation or Decoding raise goes on with `failed`, writing
nothing to `STATUS`; a fault is never caught. -/
def Run.tryThen (r : Run) (ok : State → Run) (failed : Raise → State → Run) : Run :=
  match r with
  | .ok s => ok s
  | .raised (.fault c) s => .raised (.fault c) s
  | .raised (.validation v) s => failed (.validation v) s
  | .raised (.decoding v dt) s => failed (.decoding v dt) s

/-- Change the registers at the end of a run, however it ended. -/
def Run.mapState (r : Run) (g : State → State) : Run :=
  match r with
  | .ok s => .ok (g s)
  | .raised e s => .raised e (g s)

/-- A loop of pseudocode: `f x` for every `x` of the list, in order (rule R12). -/
def forEach {α : Type} (xs : List α) (f : α → State → Run) (s : State) : Run :=
  match xs with
  | [] => .ok s
  | x :: rest => (f x s).andThen (forEach rest f)

/-- The `DETAIL` known to the caller of a caught raise (rule R13, `try call`). -/
def Raise.detail : Raise → Detail
  | .decoding _ dt => dt
  | .validation _ => .none
  | .fault _ => .none

/-- TAKING AN EVENT, the one shared operation (rules R284 to R286, R292): its whole effect is the
code it writes to `STATUS`; no register is saved and control goes nowhere. -/
def takeRaise (e : Raise) (s : State) : State :=
  match e with
  | .validation r => { s with status := s.status.withValidation r }
  | .decoding r dt => { s with status := s.status.withDecoding r dt }
  | .fault f => { s with status := s.status.withFault f }

/-- The end of a command: its event, if it raised one, is taken (rule R280). -/
def finish (r : Run) : State :=
  match r with
  | .ok s => s
  | .raised e s => takeRaise e s

/-- The opening clear of every accepted command (rule R101), which is also all that removes an error
of the command before (rule R293: there is no return from an event). -/
def openingClear (s : State) : State := { s with status := s.status.cleared }

/-- Running a command (rule R100): nothing at all while `STATUS.FAULT` is not 0 (rule R102), else
the opening clear and then the pseudocode. One atomic step (rule R66). -/
def command (body : State → Run) (s : State) : Host.Outcome State Fault Refusal :=
  if s.status.fault = 0 then .next (finish (body (openingClear s))) else .next s

/-- The reset event (rules R43, R320, R321), the only thing that clears `FAULT` (rule R293): every
register element becomes 0; the model's own fields stay (log entry 22). -/
def resetEvent (s : State) : State :=
  { State.reset with host := s.host, rdata := s.rdata, fresh := s.fresh }

/-- `N` becomes unspecified (rule R120, U1): a free value, log entry 5. -/
def loseLimbs (s : State) : State :=
  { s with n := Config.freeLimbs s.fresh, fresh := s.fresh + 1 }

/-- The scratch registers become unspecified (rules R44, R269, U7): free values, log entry 6. -/
def loseScratch (s : State) : State :=
  let f := Config.freeScratch s.fresh
  { s with
    n := f.n, fcs := f.fcs, fcsr := f.fcsr, cw := f.cw, w := f.w, track := f.track
    route := f.route, rpos := f.rpos, res := f.res, fresh := s.fresh + 1 }

/-- The scratch registers but `RES` become unspecified (U7: "except `RES` where the rule gives
it"). -/
def loseScratchButRes (s : State) : State := { loseScratch s with res := s.res }

/-- Every `REC` field absent (rules R233, R262, R265, R268). -/
def clearRecord (s : State) : State := { s with record := .absent }

/-- `DIFF <- 0` and `SUG[p] <- 0` for every `p` (rules R233, R255, R262, R268). -/
def clearSuggestion (s : State) : State := { s with diff := 0, sug := Vector.replicate 65 0 }

/-- The command word is illegal (rule R85): `ILLEGAL_CMD`, with no other change. -/
def illegalCommand (s : State) : Host.Outcome State Fault Refusal :=
  command (fun s => .raised (.fault .illegalCmd) s) s

end Sys2Proof.Machine
end

