-- ==== Sys2Proof/Machine/Operands.lean ====
section
/-! DEFINITION. The legal values of each operand (spec/30_encoding.md rule R83). The operands are
read from the command word by `decode`; a value that is encodable and not legal makes the command
fault when it runs (rule R86). Every value of `k` of `BN.ADD` and of `m`, `a` of `BN.MULADD` is
legal. -/

namespace Sys2Proof.Machine

/-- Legal `v` of `BN.LDLO`: two limbs (rules R83, R112). -/
def ldloLegal (v : Nat) : Bool := decide (v < 2 ^ 22)

/-- Legal `d` of `BN.DIVMOD`: not zero (rules R83, R116). -/
def divisorLegal (d : Nat) : Bool := decide (d ≠ 0)

/-- Legal `i` of `TBL.ENC`: a codeword index (rules R83, R148). -/
def indexLegal (i : Nat) : Bool := decide (i ≤ 1364)

/-- Legal `w` of `TBL.DEC`: a 13-bit word (rules R83, R149). -/
def wordLegal (w : Nat) : Bool := decide (w ≤ 8191)

end Sys2Proof.Machine
end

