-- ==== Sys2Proof/Machine/BigNum.lean ====
section
/-! DEFINITION. The BigNum unit (spec/41_bignum.md). The limb loops run over the list of limbs, most
significant first (rule R61); a loop "for i in 9 downto 0" is a recursion that treats the tail, the
less significant limbs, first. -/

namespace Sys2Proof.Machine

/-- The base of the limbs. -/
def limbBase : Nat := 2048

/-- `val` of a list of limbs, most significant first (rule R13). -/
def limbsVal : List Limb → Nat
  | [] => 0
  | x :: rest => x.toNat * limbBase ^ rest.length + limbsVal rest

/-- `val(N)` (rule R13). -/
def val (n : Limbs) : Nat := limbsVal n.toList

/-- Ten limbs from a list, most significant first. -/
def limbsOf (l : List Limb) : Limbs := Vector.ofFn fun i => l.getD i 0

/-- The loop of `BN.ADD` (rule R114): the new limbs and the last carry, which is signed. -/
def addLimbs : List Limb → Int → List Limb × Int
  | [], c => ([], c)
  | x :: rest, c =>
    let r := addLimbs rest c
    let y := (x.toNat : Int) + r.2
    (BitVec.ofInt 11 (y % limbBase) :: r.1, y / limbBase)

/-- The loop of `BN.MULADD` (rule R115): the new limbs and the last carry. -/
def muladdLimbs (m : Nat) : List Limb → Nat → List Limb × Nat
  | [], c => ([], c)
  | x :: rest, c =>
    let r := muladdLimbs m rest c
    let y := x.toNat * m + r.2
    (BitVec.ofNat 11 (y % limbBase) :: r.1, y / limbBase)

/-- The loop of `BN.DIVMOD` (rule R116), from the running remainder `r`: the quotient limbs and the
last remainder. -/
def divmodLimbs (d : Nat) : List Limb → Nat → List Limb × Nat
  | [], r => ([], r)
  | x :: rest, r =>
    let y := r * limbBase + x.toNat
    let q := divmodLimbs d rest (y % d)
    (BitVec.ofNat 11 (y / d) :: q.1, q.2)

/-- `BN.CLR` (rule R111). -/
def bnClr (s : State) : Run := .ok { s with n := Vector.replicate 10 0 }

/-- `BN.LDLO v` (rule R112). -/
def bnLdlo (v : Nat) (s : State) : Run :=
  if ldloLegal v then
    .ok { s with
      n := ((Vector.replicate 10 0).set 8 (BitVec.ofNat 11 (v / 2048))).set 9 (BitVec.ofNat 11 v) }
  else .raised (.fault .operandRange) s

/-- `BN.ISZERO` (rule R113). -/
def bnIszero (s : State) : Run :=
  .ok { s with res := if s.n.toList.all (· == 0) then 1 else 0 }

/-- `BN.ADD k` (rules R114, R120): a carry left over is an overflow or underflow, and `N` is then
unspecified. -/
def bnAdd (k : Int) (s : State) : Run :=
  let r := addLimbs s.n.toList k
  if r.2 = 0 then .ok { s with n := limbsOf r.1 }
  else .raised (.fault .bnOverflow) (loseLimbs s)

/-- `BN.MULADD m, a` (rules R115, R120): the first carry is `a`; a carry left over is an overflow,
and `N` is then unspecified. -/
def bnMuladd (m a : Nat) (s : State) : Run :=
  let r := muladdLimbs m s.n.toList a
  if r.2 = 0 then .ok { s with n := limbsOf r.1 }
  else .raised (.fault .bnOverflow) (loseLimbs s)

/-- `BN.DIVMOD d` (rule R116). -/
def bnDivmod (d : Nat) (s : State) : Run :=
  if divisorLegal d then
    let q := divmodLimbs d s.n.toList 0
    .ok { s with n := limbsOf q.1, res := BitVec.ofNat 32 q.2 }
  else .raised (.fault .divZero) s

/-- The command `BN.CLR` (rule R111). -/
def execBnClr (s : State) : Host.Outcome State Fault Refusal := command bnClr s

/-- The command `BN.LDLO v` (rule R112). -/
def execBnLdlo (v : Nat) (s : State) : Host.Outcome State Fault Refusal := command (bnLdlo v) s

/-- The command `BN.ISZERO` (rule R113). -/
def execBnIszero (s : State) : Host.Outcome State Fault Refusal := command bnIszero s

/-- The command `BN.ADD k` (rule R114). -/
def execBnAdd (k : Int) (s : State) : Host.Outcome State Fault Refusal := command (bnAdd k) s

/-- The command `BN.MULADD m, a` (rule R115). -/
def execBnMuladd (m a : Nat) (s : State) : Host.Outcome State Fault Refusal :=
  command (bnMuladd m a) s

/-- The command `BN.DIVMOD d` (rule R116). -/
def execBnDivmod (d : Nat) (s : State) : Host.Outcome State Fault Refusal :=
  command (bnDivmod d) s

end Sys2Proof.Machine
end

