-- ==== Sys2Proof/Machine/Codeword.lean ====
section
/-! DEFINITION. The codeword transform (spec/46_codewords.md). -/

namespace Sys2Proof.Machine

/-- `call BN.DIVMOD 1365; CW[i] <- RES` (rule R204). -/
def takeCodeword (i : Fin 10) (s : State) : Run :=
  (bnDivmod 1365 s).andThen fun s => .ok { s with cw := s.cw.set i (s.res.setWidth 11) }

/-- `(N[8] << 11) | N[9]`, the residue of the split (rule R204). -/
def residue (n : Limbs) : Nat := (n[8].toNat <<< 11) ||| n[9].toNat

/-- `CW.SPLIT` (rule R204). -/
def cwSplit (s : State) : Run :=
  (bnDivmod 636 s).andThen fun s =>
  (forEach [8, 7, 6, 5, 4, 3, 2, 1] takeCodeword
    { s with cw := s.cw.set 9 ((s.res <<< 1).setWidth 11) }).andThen fun s =>
  let r0 := residue s.n
  if r0 > 658 then .raised (.fault .operandRange) s
  else .ok { s with cw := s.cw.set 0 (BitVec.ofNat 11 (if s.fcs.getLsbD 10 then r0 + 659 else r0)) }

/-- The word of codeword register `i` with the FCS bit `i` folded in (rule R205). -/
def mapWord (cw : Codewords) (fcs : BitVec 11) (i : Fin 10) : Char13 :=
  let w := romEnc cw[i].toNat
  if fcs.getLsbD i then complement w else w

/-- `CW.MAP` (rules R202, R205): all ten ranges are checked before any write. -/
def cwMap (s : State) : Run :=
  if s.cw.toList.any fun c => decide (c.toNat > 1364) then .raised (.fault .operandRange) s
  else .ok { s with w := Vector.ofFn fun i => mapWord s.cw s.fcs i }

/-- The index of word `i` (rule R206, step 2); 2047, the index field of `INVALID`, for an invalid
word (rule R146), which the command never uses. -/
def wordIndex (w : Words) (i : Fin 10) : Nat := (romDec w[i]).getD 2047

/-- Some word is no codeword's (rule R206, step 2). -/
def anyInvalid (w : Words) : Bool := w.toList.any fun x => (romDec x).isNone

/-- FCS bits 0 to 9 as the words carry them (rule R206, step 3). -/
def wordBits (w : Words) : BitVec 11 :=
  (List.finRange 10).foldl (fun f i => f ||| ((romFcs w[i]).setWidth 11 <<< i.val)) 0

/-- The codewords that a good word set holds: codeword 9 halved, the offset taken off codeword 0
(rule R206, step 6). -/
def unmapped (w : Words) : Codewords :=
  Vector.ofFn fun i =>
    let c := wordIndex w i
    BitVec.ofNat 11 (if i = 9 then c / 2 else if i = 0 ∧ 659 ≤ c then c - 659 else c)

/-- The frame-check sequence that a good word set holds, with bit 10 from the offset of codeword 0
(rule R206, steps 3 and 6). -/
def unmappedFcs (w : Words) : BitVec 11 :=
  if 659 ≤ wordIndex w 0 then wordBits w ||| 0x400 else wordBits w

/-- `CW.UNMAP` (rule R206): the checks in the source's order; `CW` and `FCSR` are written only when
all pass. -/
def cwUnmap (s : State) : Run :=
  if anyInvalid s.w then .raised (.decoding .invalidBarcode .invalidCodeword) s
  else if wordIndex s.w 0 > 1317 ∨ wordIndex s.w 9 > 1270 then
    .raised (.decoding .invalidBarcode .range) s
  else if wordIndex s.w 9 % 2 = 1 then .raised (.decoding .invalidBarcode .orientation) s
  else .ok { s with cw := unmapped s.w, fcsr := unmappedFcs s.w }

/-- `CW.JOIN` (rule R207). -/
def cwJoin (s : State) : Run :=
  (bnLdlo s.cw[0].toNat s).andThen fun s =>
  (forEach [1, 2, 3, 4, 5, 6, 7, 8] (fun (i : Fin 10) s => bnMuladd 1365 s.cw[i].toNat s) s).andThen
    fun s => bnMuladd 636 s.cw[9].toNat s

/-- The command `CW.SPLIT` (rule R204). -/
def execCwSplit (s : State) : Host.Outcome State Fault Refusal := command cwSplit s

/-- The command `CW.MAP` (rule R205). -/
def execCwMap (s : State) : Host.Outcome State Fault Refusal := command cwMap s

/-- The command `CW.UNMAP` (rule R206). -/
def execCwUnmap (s : State) : Host.Outcome State Fault Refusal := command cwUnmap s

/-- The command `CW.JOIN` (rule R207). -/
def execCwJoin (s : State) : Host.Outcome State Fault Refusal := command cwJoin s

end Sys2Proof.Machine
end

