-- ==== Sys2Proof/Machine/Fcs.lean ====
section
/-! DEFINITION. The frame-check sequence (spec/42_fcs.md). -/

namespace Sys2Proof.Machine

/-- The seed, `FCS_SEED` (rules R6, R130). -/
def fcsSeed : BitVec 12 := 0x1F0

/-- The polynomial, `FCS_POLY` (rules R6, R130). -/
def fcsPoly : BitVec 12 := 0xF35

/-- One shift of rule R130: shift left, then exclusive-or the polynomial if bit 11 is set. The
temporary is below 2^11 before the shift, so 12 bits hold it (rule R130, "a 12-bit register is
enough"; log entry 23). -/
def fcsShift (f : BitVec 12) : BitVec 12 :=
  let g := f <<< 1
  if g.getLsbD 11 then g ^^^ fcsPoly else g

/-- `k` shifts. -/
def fcsShifts : Nat → BitVec 12 → BitVec 12
  | 0, f => f
  | k + 1, f => fcsShifts k (fcsShift f)

/-- One limb of rule R130: the whole limb is exclusive-ored in, then 11 shifts. -/
def fcsLimb (f : BitVec 12) (x : Limb) : BitVec 12 := fcsShifts 11 (f ^^^ x.setWidth 12)

/-- `fcs_of(n)` (rule R130): the limbs from `n[0]` to `n[9]`, then the low 11 bits. -/
def fcsOf (n : Limbs) : BitVec 11 := (n.toList.foldl fcsLimb fcsSeed).setWidth 11

/-- `FCS.CALC` (rule R131). -/
def fcsCalc (s : State) : Run := .ok { s with fcs := fcsOf s.n }

/-- `FCS.CHK` (rule R132): `FCS` is written before the comparison. -/
def fcsChk (s : State) : Run :=
  let s := { s with fcs := fcsOf s.n }
  if s.fcs = s.fcsr then .ok s else .raised (.decoding .invalidBarcode .fcsMismatch) s

/-- The command `FCS.CALC` (rule R131). -/
def execFcsCalc (s : State) : Host.Outcome State Fault Refusal := command fcsCalc s

/-- The command `FCS.CHK` (rule R132). -/
def execFcsChk (s : State) : Host.Outcome State Fault Refusal := command fcsChk s

end Sys2Proof.Machine
end

