-- ==== Sys2Proof/Machine/Payload.lean ====
section
/-! DEFINITION. Record validation, payload packer and unpacker (spec/45_payload.md). -/

namespace Sys2Proof.Machine

/-- `isdigit(b)` (rule R13). -/
def isDigit (b : Byte) : Bool := decide (0x30 ≤ b.toNat ∧ b.toNat ≤ 0x39)

/-- `digit(b)` (rule R13). -/
def digitOf (b : Byte) : Nat := b.toNat - 0x30

/-- `ascii(d)` (rule R13). -/
def asciiOf (d : Digit) : Byte := 0x30 + d.setWidth 8

/-- The bytes of a field that count: `CH[0..LEN-1]` (rule R35). -/
def RecField.bytes (f : RecField) : List Byte := f.ch.toList.take f.len.toNat

/-- A field is present when its `LEN` is not 0 (rule R35). -/
def RecField.present (f : RecField) : Bool := f.len != 0

/-- `alldigits(F)` (rule R182). -/
def allDigits (f : RecField) : Bool := f.bytes.all isDigit

/-- Exactly `k` bytes, all digits (rule R181). -/
def digitsExactly (k : Nat) (f : RecField) : Bool := f.len.toNat == k && allDigits f

/-- `int` of a list of digit bytes, first byte most significant (rule R13). -/
def intOf (l : List Byte) : Nat := l.foldl (fun v b => 10 * v + digitOf b) 0

/-- `int(F)` (rule R13). -/
def fieldInt (f : RecField) : Nat := intOf f.bytes

/-- The tests of `PAY.VALIDATE` in their order (rules R181, R182): the reason of the first that
fails. -/
def validation (r : Record) : Option ValReason :=
  if r.zip.present && !digitsExactly 5 r.zip then some .zipDigits
  else if r.p4.present && !r.zip.present then some .zipRequired
  else if r.p4.present && !digitsExactly 4 r.p4 then some .plus4Digits
  else if r.dp.present && !digitsExactly 2 r.dp then some .deliveryDigits
  else if r.dp.present && !r.p4.present then some .plus4Required
  else if !digitsExactly 2 r.bid then some .barcodeDigits
  else if decide (4 < digitOf r.bid.ch[1]) then some .barcodeSecond
  else if !digitsExactly 3 r.stc then some .serviceDigits
  else if !(digitsExactly 6 r.mid || digitsExactly 9 r.mid) then some .mailerDigits
  else if r.mid.len.toNat + r.ser.len.toNat != 15 then some .mailerSerial
  else if !allDigits r.ser then some .mailerSerial
  else none

/-- `PAY.VALIDATE` (rule R182). -/
def payValidate (s : State) : Run :=
  match validation s.record with
  | none => .ok s
  | some e => .raised (.validation e) s

/-- The marker that tells the shapes apart (rules R180, R183). -/
def marker (r : Record) : Nat :=
  (if r.zip.present then 1 else 0) + (if r.p4.present then 100000 else 0) +
  (if r.dp.present then 1000000000 else 0)

/-- Run a step only when a field is present (rule R183, steps 2 to 4). -/
def whenPresent (f : RecField) (p : State → Run) (s : State) : Run :=
  if f.present then p s else .ok s

/-- Steps 1 to 5 of the packer: the routing value (rule R183). -/
def packRouting (r : Record) (s : State) : Run :=
  (bnClr s).andThen fun s =>
  (whenPresent r.zip (bnLdlo (fieldInt r.zip)) s).andThen fun s =>
  (whenPresent r.p4 (bnMuladd 10000 (fieldInt r.p4)) s).andThen fun s =>
  (whenPresent r.dp (bnMuladd 100 (fieldInt r.dp)) s).andThen fun s =>
  bnAdd (marker r) s

/-- Mailer and serial number of the packer, in the split of the mailer's length (rule R183). -/
def packMailer (r : Record) (s : State) : Run :=
  if r.mid.len = 6 then
    (bnMuladd 1000000 (fieldInt r.mid) s).andThen fun s =>
    (bnMuladd 100000 0 s).andThen fun s =>
    bnMuladd 10000 (fieldInt r.ser) s
  else
    (bnMuladd 10000 0 s).andThen fun s =>
    (bnMuladd 100000 (fieldInt r.mid) s).andThen fun s =>
    bnMuladd 1000000 (fieldInt r.ser) s

/-- Step 6 of the packer: the tracking digits (rule R183). -/
def packTracking (r : Record) (s : State) : Run :=
  (bnMuladd 10 (digitOf r.bid.ch[0]) s).andThen fun s =>
  (bnMuladd 5 (digitOf r.bid.ch[1]) s).andThen fun s =>
  (bnMuladd 1000 (fieldInt r.stc) s).andThen fun s =>
  packMailer r s

/-- `PAY.PACK` (rule R183). The payload has up to 102 bits, so `N[0]` reaches 7 afterwards. Rule R184
says so of the payload and says `N[0]` ≤ 3 beside it: the formula of rule R180 is followed (DEDUCED,
log entry 27). -/
def payPack (s : State) : Run :=
  (payValidate s).andThen fun s =>
  (packRouting s.record s).andThen fun s =>
  packTracking s.record s

/-- `call BN.DIVMOD d; TRACK[j] <- RES` (rule R186, step 9). -/
def takeTrack (d : Nat) (j : Fin 20) (s : State) : Run :=
  (bnDivmod d s).andThen fun s => .ok { s with track := s.track.set j (s.res.setWidth 4) }

/-- `call BN.DIVMOD 10; ROUTE[pos] <- RES` (rule R186, step 10). -/
def takeRoute (pos : Nat) (s : State) : Run :=
  (bnDivmod 10 s).andThen fun s =>
  .ok { s with route := s.route.setIfInBounds pos (s.res.setWidth 4) }

/-- `repeat sz times: pos <- pos - 1; …` (rule R186, step 10). -/
def takeRoutes : Nat → Nat → State → Run
  | 0, _, s => .ok s
  | sz + 1, pos, s => (takeRoute (pos - 1) s).andThen (takeRoutes sz (pos - 1))

/-- `str(d_0 .. d_k)`: a field that holds these digits, the other bytes 0 (rule R186). -/
def strOf (ds : List Digit) : RecField :=
  { len := BitVec.ofNat 4 ds.length
    ch := Vector.ofFn fun k => match ds[k.val]? with
      | some d => asciiOf d
      | none => 0 }

/-- The `k` digits from position `j` on. -/
def digitsAt {m : Nat} (v : Vector Digit m) (j k : Nat) : List Digit := (v.toList.drop j).take k

/-- The record that step 12 writes (rule R186): the split of mailer and serial number follows
`TRACK[5]`, the routing fields follow `pos`. -/
def recordOf (track : Vector Digit 20) (route : Vector Digit 11) (pos : Nat) : Record :=
  { bid := strOf (digitsAt track 0 2)
    stc := strOf (digitsAt track 2 3)
    mid := if track[5] = 9 then strOf (digitsAt track 5 9) else strOf (digitsAt track 5 6)
    ser := if track[5] = 9 then strOf (digitsAt track 14 6) else strOf (digitsAt track 11 9)
    zip := if pos ≤ 6 then strOf (digitsAt route pos 5) else .absent
    p4 := if pos ≤ 2 then strOf (digitsAt route (pos + 5) 4) else .absent
    dp := if pos = 0 then strOf (digitsAt route 9 2) else .absent }

/-- Steps 11 and 12 of the unpacker (rule R186): a value left over is a padding failure. -/
def unpackEnd (pos : Nat) (s : State) : Run :=
  (bnIszero s).andThen fun s =>
  if s.res = 0 then .raised (.decoding .invalidBarcode .padding) s
  else .ok { s with rpos := BitVec.ofNat 4 pos, record := recordOf s.track s.route pos }

/-- Step 10 of the unpacker, with the rest after it (rule R186): the sizes still to take; `break`
when `N` is zero. -/
def unpackRouting : List Nat → Nat → State → Run
  | [], pos, s => unpackEnd pos s
  | sz :: rest, pos, s =>
    (bnIszero s).andThen fun s =>
    if s.res = 1 then unpackEnd pos s
    else
      (bnAdd (-1) s).andThen fun s =>
      (takeRoutes sz pos s).andThen fun s =>
      unpackRouting rest (pos - sz) s

/-- The tracking positions that are decimal, in the order of step 9: 19 down to 2 (rule R186). -/
def trackOrder : List (Fin 20) := [19, 18, 17, 16, 15, 14, 13, 12, 11, 10, 9, 8, 7, 6, 5, 4, 3, 2]

/-- Step 9 of the unpacker (rule R186). -/
def unpackTracking (s : State) : Run :=
  (forEach trackOrder (takeTrack 10) s).andThen fun s =>
  (takeTrack 5 1 s).andThen fun s =>
  takeTrack 10 0 s

/-- `PAY.UNPACK` (rule R186). -/
def payUnpack (s : State) : Run :=
  (unpackTracking { s with track := Vector.replicate 20 0, route := Vector.replicate 11 0 }).andThen
    (unpackRouting [5, 4, 2] 11)

/-- The command `PAY.VALIDATE` (rule R182). -/
def execPayValidate (s : State) : Host.Outcome State Fault Refusal := command payValidate s

/-- The command `PAY.PACK` (rule R183). -/
def execPayPack (s : State) : Host.Outcome State Fault Refusal := command payPack s

/-- The command `PAY.UNPACK` (rule R186). -/
def execPayUnpack (s : State) : Host.Outcome State Fault Refusal := command payUnpack s

end Sys2Proof.Machine
end

