-- ==== Sys2Proof/Machine/Symbols.lean ====
section
/-! DEFINITION. Symbols, halves, the default layout and the symbol commands (spec/44_layout.md; the
input check of spec/48_decode.md rule R231). Every operation takes the layout as an argument, since
`LAYOUT` is a parameter (rules R6, R163; 93_implementation_defined.md U8); the commands use
`layout`. -/

namespace Sys2Proof.Machine

/-- The default value of `LAYOUT` (rule R163), position 0 first. The spec marks it as recalled from
general knowledge and not from its source: PRESUMED, log entry 4. -/
def defaultLayout : Layout :=
  {
    descChar := #v[7, 1, 9, 5, 8, 0, 2, 4, 6, 3, 5, 8, 9, 7, 3, 0, 6, 1, 7, 4, 6, 8,
      9, 2, 5, 1, 7, 5, 4, 3, 8, 7, 6, 0, 2, 5, 4, 9, 3, 0, 1, 6, 8, 2,
      0, 4, 5, 9, 6, 7, 5, 2, 6, 3, 8, 5, 1, 9, 8, 7, 4, 0, 2, 6, 3]
    descBit := #v[2, 10, 12, 5, 9, 1, 5, 4, 3, 9, 11, 5, 10, 1, 6, 3, 4, 1, 10, 0, 2, 11,
      8, 6, 1, 12, 3, 8, 6, 4, 4, 11, 0, 6, 1, 9, 11, 5, 3, 7, 3, 10, 7, 11,
      8, 2, 10, 3, 5, 8, 0, 3, 12, 11, 8, 4, 5, 1, 3, 0, 7, 12, 9, 8, 10]
    ascChar := #v[4, 0, 2, 6, 3, 5, 1, 9, 8, 7, 1, 2, 0, 6, 4, 8, 2, 9, 5, 3, 0, 1,
      3, 7, 4, 6, 8, 9, 2, 0, 5, 1, 9, 4, 3, 8, 6, 7, 1, 2, 4, 3, 9, 5,
      7, 8, 3, 0, 2, 1, 4, 0, 9, 1, 7, 0, 2, 4, 6, 3, 7, 1, 9, 5, 8]
    ascBit := #v[3, 0, 8, 11, 1, 12, 8, 11, 10, 6, 4, 12, 2, 7, 9, 6, 7, 9, 2, 8, 4, 0,
      12, 7, 10, 9, 0, 7, 10, 5, 7, 9, 6, 8, 2, 12, 1, 4, 2, 0, 1, 5, 4, 6,
      12, 1, 0, 9, 4, 7, 5, 10, 2, 6, 9, 11, 2, 12, 6, 7, 5, 11, 0, 3, 2] }

/-- The value of the parameter `LAYOUT` that the commands run with (log entry 4). -/
def layout : Layout := defaultLayout

/-- The symbol bytes (rules R33, R160). -/
def symA : Byte := 0x41
/-- `D`. -/
def symD : Byte := 0x44
/-- `F`. -/
def symF : Byte := 0x46
/-- `T`. -/
def symT : Byte := 0x54

/-- `sym(d, a)`: the symbol with descender half `d` and ascender half `a` (rule R160). -/
def symOf (d a : Bool) : Byte :=
  match d, a with
  | false, false => symT
  | false, true => symA
  | true, false => symD
  | true, true => symF

/-- `dhalf`: the descender half of a symbol (rule R160). -/
def dhalf (b : Byte) : Bool := b == symD || b == symF

/-- `ahalf`: the ascender half of a symbol (rule R160). -/
def ahalf (b : Byte) : Bool := b == symA || b == symF

/-- `issym(b)`: one of `A`, `D`, `F`, `T` (rule R231). -/
def isSym (b : Byte) : Bool := b == symA || b == symD || b == symF || b == symT

/-- The symbol at position `p` that ten words render to (rule R165). -/
def symbolAt (L : Layout) (w : Words) (p : Fin 65) : Byte :=
  symOf (w[L.descChar[p]].getLsbD L.descBit[p]) (w[L.ascChar[p]].getLsbD L.ascBit[p])

/-- The 65-symbol rendering of ten words (rules R165, R260). -/
def render (L : Layout) (w : Words) : Vector Byte 65 := Vector.ofFn fun p => symbolAt L w p

/-- The bits that position `p` with symbol `b` contributes to word `i` (rules R161, R166). -/
def halfBits (L : Layout) (b : Byte) (p : Fin 65) (i : Fin 10) : Char13 :=
  (if dhalf b = true ∧ L.descChar[p] = i then BitVec.twoPow 13 L.descBit[p] else 0) |||
  (if ahalf b = true ∧ L.ascChar[p] = i then BitVec.twoPow 13 L.ascBit[p] else 0)

/-- `words(c)` of a 65-symbol string (rules R166, R253): word `i` gathers its bits from all positions
(log entry 20). -/
def gather (L : Layout) (str : Vector Byte 65) : Words :=
  Vector.ofFn fun i => (List.finRange 65).foldl (fun (w : Char13) (p : Fin 65) => w ||| halfBits L str[p] p i) 0

/-- The first 65 entries of `SYM`. -/
def sym65 (s : State) : Vector Byte 65 := Vector.ofFn fun p => s.sym[p.val]

/-- The first `k` entries of `SYM` are all symbols. -/
def allSymbols (k : Nat) (s : State) : Bool := (s.sym.toList.take k).all isSym

/-- `CHECK_SYMBOLS` (rule R231): the length first, then every symbol. -/
def checkSymbols (s : State) : Run :=
  if s.len = 65 then
    if allSymbols 65 s then .ok s else .raised (.decoding .invalidSymbol .none) s
  else .raised (.decoding .length .none) s

/-- `SYM` holds these 65 symbols, and `SYM[65]` is 0x00. -/
def bufferOf (c : Vector Byte 65) : Vector Byte 66 := c.push 0

/-- `SYM.EMIT` (rule R165). -/
def symEmit (L : Layout) (s : State) : Run :=
  .ok { s with sym := bufferOf (render L s.w), len := 65 }

/-- `SYM.PARSE` (rule R166). -/
def symParse (L : Layout) (s : State) : Run :=
  (checkSymbols s).andThen fun s => .ok { s with w := gather L (sym65 s) }

/-- The A/D swap of one byte (rule R167). -/
def swapAD (b : Byte) : Byte := if b = symA then symD else if b = symD then symA else b

/-- `SYM.FLIP` (rule R167): every entry below `LEN`. -/
def symFlip (s : State) : Run :=
  .ok { s with sym := Vector.ofFn fun p => if p.val < s.len.toNat then swapAD s.sym[p] else s.sym[p] }

/-- The command `SYM.EMIT` (rule R165). -/
def execSymEmit (s : State) : Host.Outcome State Fault Refusal := command (symEmit layout) s

/-- The command `SYM.PARSE` (rule R166). -/
def execSymParse (s : State) : Host.Outcome State Fault Refusal := command (symParse layout) s

/-- The command `SYM.FLIP` (rule R167). -/
def execSymFlip (s : State) : Host.Outcome State Fault Refusal := command symFlip s

end Sys2Proof.Machine
end

