-- ==== Sys2Proof/Machine/Pipeline.lean ====
section
/-! DEFINITION. The encoder and the strict decoder (spec/47_encode.md, spec/48_decode.md). -/

namespace Sys2Proof.Machine

/-- `ENCODE` (rule R221). -/
def encodeRun (L : Layout) (s : State) : Run :=
  (payPack s).andThen fun s =>
  (fcsCalc s).andThen fun s =>
  (cwSplit s).andThen fun s =>
  (cwMap s).andThen fun s =>
  symEmit L s

/-- Steps 2 to 12 of parse-words-and-decode, on the words in `W` (rules R232, R258). -/
def decodeWords (s : State) : Run :=
  (cwUnmap s).andThen fun s =>
  (cwJoin s).andThen fun s =>
  (fcsChk s).andThen fun s =>
  payUnpack s

/-- `DEC.STRICT` (rule R233). -/
def decStrict (L : Layout) (s : State) : Run :=
  (symParse L (clearRecord (clearSuggestion { s with repinfo := 0 }))).andThen decodeWords

/-- The command `ENCODE` (rule R221). -/
def execEncode (s : State) : Host.Outcome State Fault Refusal := command (encodeRun layout) s

/-- The command `DEC.STRICT` (rule R233). -/
def execDecStrict (s : State) : Host.Outcome State Fault Refusal := command (decStrict layout) s

end Sys2Proof.Machine
end

