-- ==== Sys2Proof/Machine/Recovery.lean ====
section
/-! DEFINITION. Length repair, bit-flip repair, orientation detection and the full decoder
(spec/49_recovery.md). The scratch registers that these commands leave unspecified (rules R44, R269)
become free values when the command has ended. -/

namespace Sys2Proof.Machine

/-- The length-repair acceptance bar (rules R6, R254). -/
def acceptBar : Nat := 5

/-- The bit-flip product cap (rules R6, R257). -/
def productCap : Nat := 1000

/-- The first `LEN` symbols. -/
def symbols (s : State) : List Byte := s.sym.toList.take s.len.toNat

/-- A 65-symbol string from a list. -/
def string65 (l : List Byte) : Vector Byte 65 := Vector.ofFn fun p => l.getD p 0

/-- Candidate `j` of length repair (rule R252): for 64 symbols, the placeholder `T` inserted at `j`;
for 66 symbols, symbol `j` deleted. -/
def candidate (c : List Byte) (j : Nat) : Vector Byte 65 :=
  if c.length = 64 then string65 (c.take j ++ symT :: c.drop j) else string65 (c.eraseIdx j)

/-- `bad(c)`: how many of the ten words are invalid (rule R253). -/
def bad (L : Layout) (c : Vector Byte 65) : Nat :=
  ((gather L c).toList.filter fun w => (romDec w).isNone).length

/-- One step of the scan of rule R255: strictly fewer invalid words than the best so far wins, so the
first minimum is kept. -/
def keepBetter (L : Layout) (c : List Byte) (best : Nat × Nat) (j : Nat) : Nat × Nat :=
  let b := bad L (candidate c j)
  if b < best.1 then (b, j) else best

/-- The scan over all candidates (rule R255): the fewest invalid words and the index that has them
first. -/
def bestCandidate (L : Layout) (c : List Byte) : Nat × Nat :=
  (List.range (if c.length = 64 then 65 else 66)).foldl (keepBetter L c) (11, 0)

/-- `MODE` of `REPINFO` for an input of `k` symbols (rules R37, R255). -/
def repairMode (k : Nat) : BitVec 9 := if k = 64 then 1 else 2

/-- The scan of `REP.LEN` runs: the length and every symbol are acceptable (rules R251, R255). -/
def lenRepairScans (s : State) : Bool :=
  (s.len == 64 || s.len == 66) && allSymbols s.len.toNat s

/-- `REP.LEN` (rule R255). -/
def repLen (L : Layout) (s : State) : Run :=
  let s := clearSuggestion { s with repinfo := 0 }
  if s.len ≠ 64 ∧ s.len ≠ 66 then .raised (.decoding .length .none) s
  else if allSymbols s.len.toNat s = false then .raised (.decoding .invalidSymbol .none) s
  else
    let c := symbols s
    let best := bestCandidate L c
    let s := { s with res := BitVec.ofNat 32 best.1 }
    if acceptBar ≤ best.1 then .raised (.decoding .invalidBarcode .lenRepairFailed) s
    else
      .ok { s with
        sym := bufferOf (candidate c best.2), len := 65
        repinfo := (repairMode c.length <<< 7) ||| BitVec.ofNat 9 best.2 }

/-- The plausible words for `w` (rule R256): `w` itself if valid, else its valid one-bit neighbours,
bit 0 first. -/
def plausible (w : Char13) : List Char13 :=
  if (romDec w).isSome then [w]
  else ((List.range 13).map fun b => w ^^^ BitVec.twoPow 13 b).filter fun x => (romDec x).isSome

/-- The ten plausible lists. -/
def plausibles (w : Words) : List (List Char13) := w.toList.map plausible

/-- The product of the list lengths (rule R257). -/
def productOf (ps : List (List Char13)) : Nat := (ps.map List.length).prod

/-- The tuples of `P[0] x … x P[9]`, every one once; any order will do (rule R259, log entry 21). -/
def tuples (ps : List (List Char13)) : List Words :=
  ps.sections.map fun t => Vector.ofFn fun i => t.getD i 0

/-- `TRY_WORDS(t)` (rule R258). -/
def tryWords (t : Words) (s : State) : Run := decodeWords { s with w := t }

/-- What the search knows so far (rule R262): how many tuples succeeded, and the last of them with
its record. -/
structure Hits where
  count : Nat
  good : Words
  found : Record
  deriving DecidableEq, Repr

/-- `DIFF` (rules R36, R260): bit `p` is set exactly when the two strings differ at `p`. -/
def diffOf (a b : Vector Byte 65) : BitVec 65 :=
  (List.finRange 65).foldl
    (fun (d : BitVec 65) (p : Fin 65) => d ||| (if a[p] ≠ b[p] then BitVec.twoPow 65 p else 0)) 0

/-- The end of `REP.FLIP` after the search (rules R259, R260, R262). -/
def flipEnd (L : Layout) (h : Hits) (s : State) : Run :=
  let s := clearRecord s
  if h.count = 0 then .raised (.decoding .invalidBarcode .noSuccess) s
  else if 2 ≤ h.count then .raised (.decoding .invalidBarcode .ambiguous) s
  else
    let sug := render L h.good
    .ok { s with
      record := h.found, sug := sug, diff := diffOf sug (sym65 s)
      status := { s.status with repair := 1 } }

/-- The search of `REP.FLIP` over the tuples, with the end after it (rule R262). -/
def flipSearch (L : Layout) : List Words → Hits → State → Run
  | [], h, s => flipEnd L h s
  | t :: rest, h, s =>
    (tryWords t s).tryThen
      (fun s => flipSearch L rest { count := h.count + 1, good := t, found := s.record } s)
      (fun _ s => flipSearch L rest h s)

/-- `REP.FLIP` (rule R262). -/
def repFlip (L : Layout) (s : State) : Run :=
  (symParse L (clearRecord (clearSuggestion s))).andThen fun s =>
  let ps := plausibles s.w
  if ps.any List.isEmpty then .raised (.decoding .invalidBarcode .noPlausible) s
  else if productOf ps > productCap then .raised (.decoding .invalidBarcode .tooMany) s
  else flipSearch L (tuples ps) { count := 0, good := s.w, found := .absent } s

/-- `DEC.ORIENT` (rule R265). -/
def decOrient (L : Layout) (s : State) : Run :=
  (symFlip s).andThen fun s =>
  (decStrict L s).tryThen
    (fun s => (symFlip s).andThen fun s =>
      .raised (.decoding .upsideDown .none) { clearRecord s with res := 1 })
    (fun _ s => (symFlip s).andThen fun s => .ok { clearRecord s with res := 0 })

/-- `DECODE` from its bit-flip repair on (rule R268); `was65` says that the input had 65 symbols. -/
def decodeRepair (L : Layout) (was65 : Bool) (s : State) : Run :=
  (repFlip L s).tryThen .ok fun e s =>
    if was65 then
      (decOrient L s).andThen fun s => .raised (.decoding .invalidBarcode e.detail) s
    else .raised (.decoding .length e.detail) s

/-- `DECODE` (rule R268). -/
def decodeRun (L : Layout) (s : State) : Run :=
  let s := clearRecord (clearSuggestion { s with repinfo := 0 })
  if s.len ≠ 64 ∧ s.len ≠ 65 ∧ s.len ≠ 66 then .raised (.decoding .length .none) s
  else if allSymbols s.len.toNat s = false then .raised (.decoding .invalidSymbol .none) s
  else if s.len = 65 then
    (decStrict L s).tryThen .ok fun _ s => decodeRepair L true s
  else
    (repLen L s).tryThen (decodeRepair L false) fun _ s =>
      .raised (.decoding .length .lenRepairFailed) s

/-- What `DECODE` leaves in the scratch registers (rule R269): after a clean decode what `DEC.STRICT`
left, after any other outcome unspecified values. A decode that ends without a raise is clean exactly
when `REPAIR` is 0 (rule R268's table; log entry 26). -/
def decodeScratch (r : Run) : Run :=
  match r with
  | .ok s => if s.status.repair = 0 then .ok s else .ok (loseScratch s)
  | .raised e s => .raised e (loseScratch s)

/-- The command `REP.LEN` (rule R255): the scratch registers are unspecified afterwards, `RES` too
unless the scan ran (U7; log entry 17). -/
def execRepLen (s : State) : Host.Outcome State Fault Refusal :=
  command (fun s =>
    (repLen layout s).mapState (if lenRepairScans s then loseScratchButRes else loseScratch)) s

/-- The command `REP.FLIP` (rule R262). -/
def execRepFlip (s : State) : Host.Outcome State Fault Refusal :=
  command (fun s => (repFlip layout s).mapState loseScratch) s

/-- The command `DEC.ORIENT` (rule R265); `RES` is given. -/
def execDecOrient (s : State) : Host.Outcome State Fault Refusal :=
  command (fun s => (decOrient layout s).mapState loseScratchButRes) s

/-- The command `DECODE` (rule R268). -/
def execDecode (s : State) : Host.Outcome State Fault Refusal :=
  command (fun s => decodeScratch (decodeRun layout s)) s

end Sys2Proof.Machine
end

