-- ==== Sys2Proof/Machine/System.lean ====
section
/-! DEFINITION. The system command `NOP` (spec/40_system.md rule R103). -/

namespace Sys2Proof.Machine

/-- `NOP` (rule R103): nothing after the opening clear. -/
def execNop (s : State) : Host.Outcome State Fault Refusal := command .ok s

end Sys2Proof.Machine
end

