-- ==== Sys2Proof/Machine/Dispatch.lean ====
section
/-! DEFINITION. The command dispatch: one arm for each command of spec/30_encoding.md rule R84. -/

namespace Sys2Proof.Machine

/-- The effect of a command on the state (rules R84, R100). -/
def exec (i : Instr) (s : State) : Host.Outcome State Fault Refusal :=
  match i with
  | .nop => Sys2Proof.Machine.execNop s
  | .bnClr => Sys2Proof.Machine.execBnClr s
  | .bnLdlo v => Sys2Proof.Machine.execBnLdlo v s
  | .bnIszero => Sys2Proof.Machine.execBnIszero s
  | .bnAdd k => Sys2Proof.Machine.execBnAdd k s
  | .bnMuladd m a => Sys2Proof.Machine.execBnMuladd m a s
  | .bnDivmod d => Sys2Proof.Machine.execBnDivmod d s
  | .fcsCalc => Sys2Proof.Machine.execFcsCalc s
  | .fcsChk => Sys2Proof.Machine.execFcsChk s
  | .tblEnc j => Sys2Proof.Machine.execTblEnc j s
  | .tblDec w => Sys2Proof.Machine.execTblDec w s
  | .cwSplit => Sys2Proof.Machine.execCwSplit s
  | .cwMap => Sys2Proof.Machine.execCwMap s
  | .cwUnmap => Sys2Proof.Machine.execCwUnmap s
  | .cwJoin => Sys2Proof.Machine.execCwJoin s
  | .symEmit => Sys2Proof.Machine.execSymEmit s
  | .symParse => Sys2Proof.Machine.execSymParse s
  | .symFlip => Sys2Proof.Machine.execSymFlip s
  | .payValidate => Sys2Proof.Machine.execPayValidate s
  | .payPack => Sys2Proof.Machine.execPayPack s
  | .payUnpack => Sys2Proof.Machine.execPayUnpack s
  | .encodeRec => Sys2Proof.Machine.execEncode s
  | .decodeSym => Sys2Proof.Machine.execDecode s
  | .decStrict => Sys2Proof.Machine.execDecStrict s
  | .repLen => Sys2Proof.Machine.execRepLen s
  | .repFlip => Sys2Proof.Machine.execRepFlip s
  | .decOrient => Sys2Proof.Machine.execDecOrient s

end Sys2Proof.Machine
end

