-- ==== Sys2Proof/Machine/RegSpace.lean ====
section
/-! DEFINITION. The register space: which element an index names, and host reads and writes of it
(spec/10_state.md rules R39, R40). -/

namespace Sys2Proof.Machine

/-- The seven record fields by name (rule R35). -/
inductive FieldName where
  | bid
  | stc
  | mid
  | ser
  | zip
  | p4
  | dp
  deriving DecidableEq, Repr

/-- The register element that an index names (rule R39). -/
inductive RegElem where
  | cmd
  | status
  | res
  | fcs
  | fcsr
  | len
  | rpos
  | repinfo
  | diff
  | n (i : Fin 10)
  | cw (i : Fin 10)
  | w (i : Fin 10)
  | track (j : Fin 20)
  | route (j : Fin 11)
  | sym (p : Fin 66)
  | sug (p : Fin 65)
  | recLen (f : FieldName)
  | recCh (f : FieldName) (k : Fin 15)
  | unmapped
  deriving DecidableEq, Repr

/-- The field of the record's block number in the map: 200 is `BID`, 210 `STC`, … (rule R39). -/
def fieldOfBlock (b : Nat) : FieldName :=
  match b with
  | 0 => .bid
  | 1 => .stc
  | 2 => .mid
  | 3 => .ser
  | 4 => .zip
  | 5 => .p4
  | _ => .dp

/-- The element of the record part of the map: `LEN` at 200 + 16·block, `CH[k]` at 201 + 16·block + k
(rule R39). -/
def recElem (x : Nat) : RegElem :=
  if h : x % 16 = 0 then .recLen (fieldOfBlock (x / 16))
  else .recCh (fieldOfBlock (x / 16)) ⟨x % 16 - 1, by omega⟩

/-- The register index map (rule R39). -/
def regElem (idx : BitVec 10) : RegElem :=
  let x := idx.toNat
  if x = 0x000 then .cmd
  else if x = 0x001 then .status
  else if x = 0x002 then .res
  else if x = 0x003 then .fcs
  else if x = 0x004 then .fcsr
  else if x = 0x005 then .len
  else if x = 0x006 then .rpos
  else if x = 0x007 then .repinfo
  else if x = 0x008 then .diff
  else if h : 0x010 ≤ x ∧ x < 0x010 + 10 then .n ⟨x - 0x010, by omega⟩
  else if h : 0x020 ≤ x ∧ x < 0x020 + 10 then .cw ⟨x - 0x020, by omega⟩
  else if h : 0x030 ≤ x ∧ x < 0x030 + 10 then .w ⟨x - 0x030, by omega⟩
  else if h : 0x040 ≤ x ∧ x < 0x040 + 20 then .track ⟨x - 0x040, by omega⟩
  else if h : 0x060 ≤ x ∧ x < 0x060 + 11 then .route ⟨x - 0x060, by omega⟩
  else if h : 0x100 ≤ x ∧ x < 0x100 + 66 then .sym ⟨x - 0x100, by omega⟩
  else if h : 0x180 ≤ x ∧ x < 0x180 + 65 then .sug ⟨x - 0x180, by omega⟩
  else if 0x200 ≤ x ∧ x < 0x270 then recElem (x - 0x200)
  else .unmapped

/-- A record field by name. -/
def Record.field (r : Record) (f : FieldName) : RecField :=
  match f with
  | .bid => r.bid
  | .stc => r.stc
  | .mid => r.mid
  | .ser => r.ser
  | .zip => r.zip
  | .p4 => r.p4
  | .dp => r.dp

/-- The record with one field replaced. -/
def Record.withField (r : Record) (f : FieldName) (x : RecField) : Record :=
  match f with
  | .bid => { r with bid := x }
  | .stc => { r with stc := x }
  | .mid => { r with mid := x }
  | .ser => { r with ser := x }
  | .zip => { r with zip := x }
  | .p4 => { r with p4 := x }
  | .dp => { r with dp := x }

/-- What a host read returns (rules R38, R39, R40): the element zero-extended, 0 for `CMD` and for an
unmapped index. -/
def readElem (e : RegElem) (s : State) : BitVec 65 :=
  match e with
  | .cmd => 0
  | .status => s.status.word.setWidth 65
  | .res => s.res.setWidth 65
  | .fcs => s.fcs.setWidth 65
  | .fcsr => s.fcsr.setWidth 65
  | .len => s.len.setWidth 65
  | .rpos => s.rpos.setWidth 65
  | .repinfo => s.repinfo.setWidth 65
  | .diff => s.diff
  | .n i => s.n[i].setWidth 65
  | .cw i => s.cw[i].setWidth 65
  | .w i => s.w[i].setWidth 65
  | .track j => s.track[j].setWidth 65
  | .route j => s.route[j].setWidth 65
  | .sym p => s.sym[p].setWidth 65
  | .sug p => s.sug[p].setWidth 65
  | .recLen f => (s.record.field f).len.setWidth 65
  | .recCh f k => (s.record.field f).ch[k].setWidth 65
  | .unmapped => 0

/-- What a host write other than to `CMD` does (rules R39, R40): the value reduced to the element's
width is stored; a write to a read-only or unmapped index is ignored. -/
def writeElem (e : RegElem) (v : Nat) (s : State) : State :=
  match e with
  | .cmd => s
  | .status => s
  | .res => s
  | .fcs => { s with fcs := BitVec.ofNat 11 v }
  | .fcsr => { s with fcsr := BitVec.ofNat 11 v }
  | .len => { s with len := BitVec.ofNat 7 v }
  | .rpos => { s with rpos := BitVec.ofNat 4 v }
  | .repinfo => s
  | .diff => s
  | .n i => { s with n := s.n.set i (BitVec.ofNat 11 v) }
  | .cw i => { s with cw := s.cw.set i (BitVec.ofNat 11 v) }
  | .w i => { s with w := s.w.set i (BitVec.ofNat 13 v) }
  | .track j => { s with track := s.track.set j (BitVec.ofNat 4 v) }
  | .route j => { s with route := s.route.set j (BitVec.ofNat 4 v) }
  | .sym p => { s with sym := s.sym.set p (BitVec.ofNat 8 v) }
  | .sug _ => s
  | .recLen f =>
    { s with record := s.record.withField f { s.record.field f with len := BitVec.ofNat 4 v } }
  | .recCh f k =>
    let x := s.record.field f
    { s with record := s.record.withField f { x with ch := x.ch.set k (BitVec.ofNat 8 v) } }
  | .unmapped => s

end Sys2Proof.Machine
end

