-- ==== Sys2Proof/Machine/Port.lean ====
section
/-! DEFINITION. The host port: what one host action does (spec/10_state.md rules R38 to R40,
spec/40_system.md rule R100, spec/70_reset_and_hazards.md rule R320). -/

namespace Sys2Proof.Machine

/-- A write of the word `c` to `CMD` (rules R38, R100). -/
def runWord (c : CmdWord) (s : State) : Host.Outcome State Fault Refusal :=
  match decode c with
  | some i => exec i s
  | none => illegalCommand s

/-- A host write of `v` at an index (rules R39, R40): index 0 is `CMD`. -/
def hostWrite (idx : BitVec 10) (v : Nat) (s : State) : Host.Outcome State Fault Refusal :=
  match regElem idx with
  | .cmd => runWord (BitVec.ofNat 64 v) s
  | e => .next (writeElem e v s)

/-- One host action. -/
def hostAct (a : HostAction) (s : State) : Host.Outcome State Fault Refusal :=
  match a with
  | .write idx v => hostWrite idx v s
  | .read idx => .next { s with rdata := readElem (regElem idx) s }
  | .reset => .next (resetEvent s)

/-- One step: the first host action still to come; with none, nothing happens, since the hardware
never starts anything on its own (rules R22, R67, R290; log entries 1, 2). -/
def portStep (s : State) : Host.Outcome State Fault Refusal :=
  match s.host with
  | [] => .next s
  | a :: rest => hostAct a { s with host := rest }

/-- The host's next action writes this table word to `CMD`; bits above `nbits` are 0 (log entry 1). -/
def issueWord (s : State) (nbits w : Nat) : State :=
  { s with host := .write 0 (w % 2 ^ nbits) :: s.host }

end Sys2Proof.Machine
end

