-- ==== Sys2Proof/Machine/Step.lean ====
section
/-! DEFINITION. The step of the machine and the place where a command word is fetched from: the
host's next write to `CMD` (spec/10_state.md rule R22). -/

namespace Sys2Proof.Machine

/-- One step (rules R22, R67): one host action, a whole command if it writes `CMD`. -/
def step (s : State) : Host.Outcome State Fault Refusal := portStep s

/-- `s` with this command word as the host's next write to `CMD`, so that the next step runs it. -/
def State.withFetchWord (s : State) (nbits w : Nat) : State := issueWord s nbits w

end Sys2Proof.Machine
end

