-- ==== Sys2Proof/Safety.lean ====
section
/-! DEFINITION. The terms the statements use: what counts as success and as a legal state, and the
spec's own tables and formulas written independently of the meanings (opcode table, endings,
validity, payload, barcode). -/

namespace Sys2Proof

open Sys2Proof.Machine

/-! ### Success and legal states -/

/-- A command succeeded: after it `KIND` = 0 and `FAULT` = 0 (rule R23). -/
def succeeded (s : State) : Bool := s.status.kind == 0 && s.status.fault == 0

/-- `STATUS` after `raise Validation(r)` (rules R280, R284). -/
def validationStatus (r : BitVec 4) : Status := { Status.zero with kind := 1, reason := r }

/-- `STATUS` after `raise Decoding(r, dt)` (rules R280, R285). -/
def decodingStatus (r dt : BitVec 4) : Status := { Status.zero with kind := 2, reason := r, detail := dt }

/-- `STATUS` after `raise Fault(f)` (rules R280, R286). -/
def faultStatus (f : BitVec 4) : Status := { Status.zero with fault := f }

/-- `STATUS` after a repaired decode (rule R268). -/
def repairedStatus : Status := { Status.zero with repair := 1 }

/-- A value of `STATUS` that can occur (rules R23, R280 to R283; 93_implementation_defined.md U10). -/
def legalStatus (t : Status) : Prop :=
  t = .zero ∨ t = repairedStatus ∨
  (∃ r : BitVec 4, 1 ≤ r.toNat ∧ r.toNat ≤ 10 ∧ t = validationStatus r) ∨
  (∃ r dt : BitVec 4, 1 ≤ r.toNat ∧ r.toNat ≤ 4 ∧ dt.toNat ≤ 10 ∧ t = decodingStatus r dt) ∨
  (∃ f : BitVec 4, 1 ≤ f.toNat ∧ f.toNat ≤ 4 ∧ t = faultStatus f)

/-- A value of `REPINFO` that can occur (rules R37, R255): no repair, an insertion at 0..64, a deletion
at 0..65. -/
def legalRepinfo (x : BitVec 9) : Prop :=
  x = 0 ∨ (∃ j ≤ 64, x = BitVec.ofNat 9 (128 + j)) ∨ (∃ j ≤ 65, x = BitVec.ofNat 9 (256 + j))

/-- Every symbol of a 65-symbol string is `A`, `D`, `F` or `T`. -/
def allSyms (str : Vector Byte 65) : Prop :=
  ∀ p : Fin 65, str[p] = 0x41 ∨ str[p] = 0x44 ∨ str[p] = 0x46 ∨ str[p] = 0x54

/-- Every one of the first `LEN` entries of `SYM` is `A`, `D`, `F` or `T` (rules R33, R251). -/
def inputSymbols (s : State) : Prop :=
  ∀ p : Fin 66, p.val < s.len.toNat →
    s.sym[p] = 0x41 ∨ s.sym[p] = 0x44 ∨ s.sym[p] = 0x46 ∨ s.sym[p] = 0x54

/-- `SUG` and `DIFF` hold nothing, or `SUG` holds a string of symbols (rule R36). -/
def legalSuggestion (s : State) : Prop :=
  (s.sug = Vector.replicate 65 0 ∧ s.diff = 0) ∨ allSyms s.sug

/-- The invariant of the machine over its host-read-only registers, the only ones the host cannot
set to any value (rules R23, R36, R37, R39): legal `STATUS`, legal `REPINFO`, legal suggestion, and a
decode reported `damaged` has a suggestion. -/
def Inv (s : State) : Prop :=
  legalStatus s.status ∧ legalRepinfo s.repinfo ∧ legalSuggestion s ∧
  (s.status.repair = 1 → allSyms s.sug)

/-! ### The opcode table -/

/-- The opcodes with their formats (rule R84). -/
def opcodeTable : List (Nat × Format) :=
  [(0x00, .Z), (0x01, .Z), (0x02, .A), (0x03, .Z), (0x04, .A), (0x05, .MA), (0x06, .M), (0x10, .Z),
   (0x11, .Z), (0x18, .A), (0x19, .A), (0x20, .Z), (0x21, .Z), (0x22, .Z), (0x23, .Z), (0x28, .Z),
   (0x29, .Z), (0x2A, .Z), (0x30, .Z), (0x31, .Z), (0x32, .Z), (0x40, .Z), (0x48, .Z), (0x49, .Z),
   (0x4A, .Z), (0x4B, .Z), (0x4C, .Z)]

/-- The mask of the fixed bits of a format (rule R82). -/
def formatMask : Format → CmdWord
  | .Z => 0xFFFFFFFFFFFFFFFF
  | .A => 0xFFFFFFFF00000000
  | .M => 0xFFF00000FFFFFFFF
  | .MA => 0xFFF0000000000000

/-- A word selects the command of a row: `(C & mask) == match`, `match = op·2^56` (rule R82). -/
def selects (c : CmdWord) (row : Nat × Format) : Prop :=
  c &&& formatMask row.2 = BitVec.ofNat 64 (row.1 * 2 ^ 56)

/-- How each command can end (rule R287; success of every command, rule R280). -/
def endings : Instr → List Status
  | .nop | .bnClr | .bnIszero | .fcsCalc | .cwJoin | .symEmit | .symFlip => [.zero]
  | .bnLdlo _ | .tblEnc _ | .tblDec _ | .cwSplit | .cwMap => [.zero, faultStatus 2]
  | .bnAdd _ | .bnMuladd _ _ => [.zero, faultStatus 3]
  | .bnDivmod _ => [.zero, faultStatus 4]
  | .fcsChk => [.zero, decodingStatus 4 4]
  | .cwUnmap => [.zero, decodingStatus 4 1, decodingStatus 4 2, decodingStatus 4 3]
  | .symParse => [.zero, decodingStatus 1 0, decodingStatus 2 0]
  | .payValidate | .payPack | .encodeRec =>
    [.zero, validationStatus 1, validationStatus 2, validationStatus 3, validationStatus 4,
     validationStatus 5, validationStatus 6, validationStatus 7, validationStatus 8,
     validationStatus 9, validationStatus 10]
  | .payUnpack => [.zero, decodingStatus 4 5]
  | .decStrict =>
    [.zero, decodingStatus 1 0, decodingStatus 2 0, decodingStatus 4 1, decodingStatus 4 2,
     decodingStatus 4 3, decodingStatus 4 4, decodingStatus 4 5]
  | .repLen => [.zero, decodingStatus 1 0, decodingStatus 2 0, decodingStatus 4 6]
  | .repFlip =>
    [repairedStatus, decodingStatus 1 0, decodingStatus 2 0, decodingStatus 4 7, decodingStatus 4 8,
     decodingStatus 4 9, decodingStatus 4 10]
  | .decOrient => [.zero, decodingStatus 3 0]
  | .decodeSym =>
    [.zero, repairedStatus, decodingStatus 1 0, decodingStatus 2 0, decodingStatus 1 6,
     decodingStatus 1 7, decodingStatus 1 8, decodingStatus 1 9, decodingStatus 1 10,
     decodingStatus 3 0, decodingStatus 4 7, decodingStatus 4 8, decodingStatus 4 9,
     decodingStatus 4 10]

/-! ### The register space -/

/-- The 20-bit `STATUS` as a number, its fields at their places and the reserved bits 0 (rule R23). -/
def statusNumber (t : Status) : Nat :=
  t.kind.toNat + 16 * t.reason.toNat + 256 * t.detail.toNat + 4096 * t.repair.toNat +
    65536 * t.fault.toNat

/-- The sixteen consecutive elements of a record field: `LEN`, then `CH[0..14]` (rule R39). -/
def fieldNumbers (f : RecField) : List Nat := f.len.toNat :: f.ch.toList.map BitVec.toNat

/-- The rows of rule R39's map that the host can read: the first index, and the values of the
elements from there on. `CMD` reads as 0 and has no row (rule R40). -/
def registerRows (s : State) : List (Nat × List Nat) :=
  [(0x001, [statusNumber s.status]), (0x002, [s.res.toNat]), (0x003, [s.fcs.toNat]),
   (0x004, [s.fcsr.toNat]), (0x005, [s.len.toNat]), (0x006, [s.rpos.toNat]),
   (0x007, [s.repinfo.toNat]), (0x008, [s.diff.toNat]),
   (0x010, s.n.toList.map BitVec.toNat), (0x020, s.cw.toList.map BitVec.toNat),
   (0x030, s.w.toList.map BitVec.toNat), (0x040, s.track.toList.map BitVec.toNat),
   (0x060, s.route.toList.map BitVec.toNat), (0x100, s.sym.toList.map BitVec.toNat),
   (0x180, s.sug.toList.map BitVec.toNat), (0x200, fieldNumbers s.record.bid),
   (0x210, fieldNumbers s.record.stc), (0x220, fieldNumbers s.record.mid),
   (0x230, fieldNumbers s.record.ser), (0x240, fieldNumbers s.record.zip),
   (0x250, fieldNumbers s.record.p4), (0x260, fieldNumbers s.record.dp)]

/-- What the host reads at index `x` by rule R39's map: 0 where no row has the index (rule R40). -/
def hostValue (s : State) (x : Nat) : Nat :=
  match (registerRows s).find? fun row => decide (row.1 ≤ x) && decide (x < row.1 + row.2.length) with
  | some row => row.2.getD (x - row.1) 0
  | none => 0

/-- The read/write rows of rule R39's map but the record's: first index, how many elements, width
(rules R25 to R34). -/
def writableRows : List (Nat × Nat × Nat) :=
  [(0x003, 1, 11), (0x004, 1, 11), (0x005, 1, 7), (0x006, 1, 4), (0x010, 10, 11), (0x020, 10, 11),
   (0x030, 10, 13), (0x040, 20, 4), (0x060, 11, 4), (0x100, 66, 8)]

/-- The width of the element that the host may write at index `x`; `none` where a write is ignored
(rules R35, R39, R40). `CMD`, index 0, is no element of this kind. -/
def hostWidth (x : Nat) : Option Nat :=
  if 0x200 ≤ x ∧ x < 0x270 then some (if x % 16 = 0 then 4 else 8)
  else (writableRows.find? fun row => decide (row.1 ≤ x) && decide (x < row.1 + row.2.1)).map
    fun row => row.2.2

/-! ### The frame-check sequence as the source writes it -/

/-- One shift on an unbounded temporary (rule R130). -/
def fcsNatShift (f : Nat) : Nat :=
  let g := f <<< 1
  if g &&& 0x800 ≠ 0 then g ^^^ 0xF35 else g

/-- `k` shifts. -/
def fcsNatShifts : Nat → Nat → Nat
  | 0, f => f
  | k + 1, f => fcsNatShifts k (fcsNatShift f)

/-- `calculate_fcs` on an unbounded temporary (rule R130). -/
def fcsNat (n : Limbs) : Nat :=
  (n.toList.foldl (fun f x => fcsNatShifts 11 (f ^^^ x.toNat)) 0x1F0) &&& 0x7FF

/-! ### Records -/

/-- The first `k` bytes of a field are digits. -/
def digitsBelow (k : Nat) (f : RecField) : Bool :=
  (List.finRange 15).all fun j => decide (k ≤ j.val) || (decide (0x30 ≤ f.ch[j].toNat) && decide (f.ch[j].toNat ≤ 0x39))

/-- `LEN` of a field is `k`. -/
def lenIs (f : RecField) (k : Nat) : Bool := decide (f.len.toNat = k)

/-- The eleven conditions of rule R181 in order, each with its reason code. -/
def validityTests (r : Record) : List (BitVec 4 × Bool) :=
  [(1, lenIs r.zip 0 || (lenIs r.zip 5 && digitsBelow 5 r.zip)),
   (2, lenIs r.p4 0 || !lenIs r.zip 0),
   (3, lenIs r.p4 0 || (lenIs r.p4 4 && digitsBelow 4 r.p4)),
   (4, lenIs r.dp 0 || (lenIs r.dp 2 && digitsBelow 2 r.dp)),
   (10, lenIs r.dp 0 || !lenIs r.p4 0),
   (5, lenIs r.bid 2 && digitsBelow 2 r.bid),
   (6, decide (r.bid.ch[1].toNat ≤ 0x34)),
   (7, lenIs r.stc 3 && digitsBelow 3 r.stc),
   (8, (lenIs r.mid 6 || lenIs r.mid 9) && digitsBelow r.mid.len.toNat r.mid),
   (9, decide (r.mid.len.toNat + r.ser.len.toNat = 15)),
   (9, digitsBelow r.ser.len.toNat r.ser)]

/-- The reason code of the first condition that fails, 0 when none does (rule R181). -/
def firstFailure (r : Record) : BitVec 4 :=
  match (validityTests r).find? fun t => !t.2 with
  | some t => t.1
  | none => 0

/-- A record is valid when all eleven conditions hold (rule R181). -/
def validRecord (r : Record) : Prop := ∀ t ∈ validityTests r, t.2 = true

/-- The routing value `R` of rule R180, by shape. -/
def routingValue (r : Record) : Nat :=
  if r.dp.present then
    (fieldInt r.zip * 10 ^ 4 + fieldInt r.p4) * 100 + fieldInt r.dp + 1000100001
  else if r.p4.present then fieldInt r.zip * 10 ^ 4 + fieldInt r.p4 + 100001
  else if r.zip.present then fieldInt r.zip + 1
  else 0

/-- The payload of a record (rule R180). -/
def payloadOf (r : Record) : Nat :=
  routingValue r * (5 * 10 ^ 19) + digitOf r.bid.ch[0] * (5 * 10 ^ 18) + digitOf r.bid.ch[1] * 10 ^ 18 +
  fieldInt r.stc * 10 ^ 15 + intOf (r.mid.bytes ++ r.ser.bytes)

/-- The mailer condition of rule R187: a 9-digit mailer exactly when its first digit is 9. -/
def mailerCondition (r : Record) : Prop := r.mid.len = 9 ↔ r.mid.ch[0] = 0x39

/-- A field with its unused bytes 0, as the unpacker writes it (rules R35, R234). -/
def tidyField (f : RecField) : RecField :=
  { f with ch := Vector.ofFn fun k => if k.val < f.len.toNat then f.ch[k] else 0 }

/-- A record with the unused bytes of every field 0. -/
def tidyRecord (r : Record) : Record :=
  { bid := tidyField r.bid, stc := tidyField r.stc, mid := tidyField r.mid, ser := tidyField r.ser
    zip := tidyField r.zip, p4 := tidyField r.p4, dp := tidyField r.dp }

/-! ### Codewords and barcodes -/

/-- The mixed-radix value of rule R200: digits `r0, c1, …, c8`, then `c9`. -/
def mixedRadix (digits : List Nat) (last : Nat) : Nat :=
  (digits.foldl (fun v c => v * 1365 + c) 0) * 636 + last

/-- The bound of the payloads that ten codewords carry: 659·636·1365^8 (rules R204, R208). -/
def splitBound : Nat := 659 * 636 * 1365 ^ 8

/-- The routing values end at 101000100000 (rule R180). -/
def lastRouting : Nat := 101000100000

/-- `RPOS` and the marker of the shape that a routing value belongs to, by the ranges of rule R180
(rule R32 for `RPOS`). -/
def routingShape (R : Nat) : Nat × Nat :=
  if R = 0 then (11, 0) else if R ≤ 100000 then (6, 1) else if R ≤ 1000100000 then (2, 100001)
  else (0, 1000100001)

/-- `ROUTE[j]` after unpacking the routing value `R`: 0 below `RPOS`, from there on the decimal digits
of `R` less its marker, in reading order (rules R31, R186). -/
def routeDigit (R j : Nat) : Nat :=
  if j < (routingShape R).1 then 0 else (R - (routingShape R).2) / 10 ^ (10 - j) % 10

/-- `TRACK[j]` after unpacking the value `v` (rules R30, R186). -/
def trackDigit (v j : Nat) : Nat :=
  if j = 0 then v / (5 * 10 ^ 18) % 10 else if j = 1 then v / 10 ^ 18 % 5
  else v / 10 ^ (19 - j) % 10

/-- Decimal digits as their ASCII bytes (rule R35). -/
def digitBytes (ds : List Digit) : List Byte := ds.map fun d => BitVec.ofNat 8 (0x30 + d.toNat)

/-- The codewords of a payload with a frame-check sequence, as transmitted (rules R200, R201): the
mixed-radix digits, codeword 9 doubled, codeword 0 with the offset 659 when FCS bit 10 is 1. -/
def codewordOf (payload : Nat) (fcs : BitVec 11) (i : Fin 10) : Nat :=
  if i = 9 then 2 * (payload % 636)
  else if i = 0 then
    payload / (636 * 1365 ^ 8) + (if fcs.getLsbD 10 then 659 else 0)
  else payload / (636 * 1365 ^ (8 - i.val)) % 1365

/-- The ten words of payload limbs (rules R130, R200, R205): the codewords' forward words,
complemented where the FCS bit of the position is 1. -/
def wordsOfPayload (n : Limbs) : Words :=
  Vector.ofFn fun i =>
    let x := romEnc (codewordOf (val n) (fcsOf n) i)
    if (fcsOf n).getLsbD i then x ^^^ 0x1FFF else x

/-- The payload limbs of a record (rule R180). -/
def payloadLimbs (r : Record) : Limbs :=
  Vector.ofFn fun i => BitVec.ofNat 11 (payloadOf r / 2048 ^ (9 - i.val))

/-- The barcode of a record in a layout (rules R180, R204, R205, R165). -/
def barcodeOf (L : Layout) (r : Record) : Vector Byte 65 := render L (wordsOfPayload (payloadLimbs r))

/-- The 65 symbols are the barcode of some valid record (rule R235). -/
def isBarcode (c : Vector Byte 65) : Prop := ∃ r, validRecord r ∧ c = barcodeOf layout r

/-- The record that ten words decode to by steps 2 to 12 (rule R258), if they do. -/
def recordOfWords (w : Words) : Option Record :=
  match tryWords w State.reset with
  | .ok s => some s.record
  | .raised _ _ => none

/-- The 65 symbols with `A` and `D` swapped (rule R263). -/
def swapped (str : Vector Byte 65) : Vector Byte 65 :=
  Vector.ofFn fun p => if str[p] = 0x41 then 0x44 else if str[p] = 0x44 then 0x41 else str[p]

/-- Symbol `p` of length-repair candidate `j` for an input of 64 or 66 symbols (rule R252). -/
def candidateSymbol (s : State) (j p : Nat) : Byte :=
  if s.len = 64 then
    if p < j then s.sym.toList.getD p 0 else if p = j then 0x54 else s.sym.toList.getD (p - 1) 0
  else if p < j then s.sym.toList.getD p 0 else s.sym.toList.getD (p + 1) 0

/-- How many candidates length repair has (rule R252). -/
def candidateCount (s : State) : Nat := if s.len = 64 then 65 else 66

/-- The count of invalid words of candidate `j` (rule R253). -/
def candidateBad (s : State) (j : Nat) : Nat :=
  bad layout (Vector.ofFn fun p => candidateSymbol s j p.val)

/-- `t` is what a decode command leaves of `s` when it rejects the input: this `STATUS`, this record
and this `REPINFO`, no suggestion and no position, the input as it was (rules R231, R233, R255, R262,
R268). -/
def rejected (s t : State) (status : Status) (record : Record) (repinfo : BitVec 9) : Prop :=
  t.status = status ∧ t.record = record ∧ t.repinfo = repinfo ∧ t.sug = Vector.replicate 65 0 ∧
    t.diff = 0 ∧ t.sym = s.sym ∧ t.len = s.len

/-- The registers of the machine are those of `t`, whatever the model's own fields (`host`, `rdata`,
`fresh`) hold. -/
def sameRegisters (s t : State) : Prop :=
  { s with host := t.host, rdata := t.rdata, fresh := t.fresh } = t

end Sys2Proof
end

