-- ==== Sys2Proof/Certificates/Slice0/Obligations.lean ====
section
/-! DEFINITION. The statements for the provers, by the spec's files: encoding, host port, each
command's result and completion, the laws between commands, the pipelines, recovery, the invariant.
`fresh`, the model's own counter of unspecified values, may advance wherever the spec leaves a
register unspecified; no statement rests on its value. -/

open Sys2Proof Sys2Proof.Machine

/-! ### Encoding (spec/30_encoding.md) -/

/-- Decoding the command word of a well-formed command gives the command back (rules R81 to R84). -/
def Obligations.DecodeOfEncodeIsTheCommand : Prop :=
  ∀ i : Instr, wellFormed i = true → decode (encode i) = some i

/-- A word that decodes is the command word of the command it decodes to, so that no bit of it is
dropped, and that command is well formed (rules R81 to R85). -/
def Obligations.EncodeOfDecodeIsTheWord : Prop :=
  ∀ (w : CmdWord) (i : Instr), decode w = some i → wellFormed i = true ∧ encode i = w

/-- A word selects the command of an opcode row exactly when `(C & mask) == match`, and decodes to
nothing exactly when it selects no row (rule R82). -/
def Obligations.WordSelectsByMaskAndMatch : Prop :=
  (∀ (w : CmdWord), ∀ row ∈ opcodeTable,
    (selects w row ↔ ∃ i, decode w = some i ∧ opcodeOf i = row.1)) ∧
  (∀ w : CmdWord, decode w = none ↔ ∀ row ∈ opcodeTable, ¬ selects w row)

/-- Words that the spec writes out decode to the commands they stand for (95_test_vectors.md section 3;
0x050003E8000000EA is rule R88's example), and three illegal words to none (30_encoding.md section 4;
95_test_vectors.md section 2.10). -/
def Obligations.ProgramWordsDecode : Prop :=
  decode 0x0000000000000000 = some .nop ∧
  decode 0x020000000000C486 = some (.bnLdlo 50310) ∧
  decode 0x04000000FFFFFFFF = some (.bnAdd (-1)) ∧
  decode 0x050003E8000000EA = some (.bnMuladd 1000 234) ∧
  decode 0x0600027C00000000 = some (.bnDivmod 636) ∧
  decode 0x1900000000001154 = some (.tblDec 0x1154) ∧
  decode 0x4800000000000000 = some .decodeSym ∧
  decode 0x0010000000000000 = none ∧ decode 0x0100000000000001 = none ∧
  decode 0x0700000000000000 = none

/-! ### The host port (spec/10_state.md, spec/40_system.md, spec/70_reset_and_hazards.md) -/

/-- A step whose host action writes a legal command word to `CMD` runs the decoded command, the action
being used up, and `withFetchWord` puts a word where the next step runs it (rules R22, R100; how the
host's actions stand in the state is the model's choice, log entry 1). -/
def Obligations.StepRunsTheDecodedCommand : Prop :=
  (∀ (s : State) (v : Nat) (rest : List HostAction) (i : Instr),
    s.host = .write 0 v :: rest → decode (BitVec.ofNat 64 v) = some i →
    step s = exec i { s with host := rest }) ∧
  (∀ (s : State) (w : Nat) (i : Instr), decodeTableWord 64 w = some i →
    step (s.withFetchWord 64 w) = exec i s)

/-- A step always answers a next state, and with no host action to come it changes nothing: the
machine never stops and never starts anything on its own (rules R290, R327; that an idle step is a
step is the model's choice, log entry 2). -/
def Obligations.EveryStepAnswersNext : Prop :=
  (∀ s : State, ∃ t, step s = .next t) ∧
  (∀ s : State, s.host = [] → step s = .next s)

/-- While `STATUS.FAULT` is not 0 a write to `CMD`, of any word, changes no register, `STATUS`
included; no command does; and no host action but reset changes `STATUS`, which reset clears (rule
R102). -/
def Obligations.FaultedCoreRefusesUntilReset : Prop :=
  (∀ (s : State) (v : Nat) (rest : List HostAction), s.status.fault ≠ 0 →
    s.host = .write 0 v :: rest → step s = .next { s with host := rest }) ∧
  (∀ (s : State) (i : Instr), s.status.fault ≠ 0 → exec i s = .next s) ∧
  (∀ (s t : State) (a : HostAction) (rest : List HostAction), s.status.fault ≠ 0 →
    s.host = a :: rest → step s = .next t →
    (a ≠ .reset → t.status = s.status) ∧ (a = .reset → t.status = .zero))

/-- Writing an illegal word to `CMD` raises `ILLEGAL_CMD` after the opening clear, with no other
change of a register (rule R85 as R100 runs it). -/
def Obligations.IllegalWordFaults : Prop :=
  ∀ (s : State) (v : Nat) (rest : List HostAction), s.status.fault = 0 →
    s.host = .write 0 v :: rest → (∀ row ∈ opcodeTable, ¬ selects (BitVec.ofNat 64 v) row) →
    step s = .next { s with host := rest, status := faultStatus 1 }

/-- After reset the host reads 0 at every index, and a reset event brings every register there from
any state (rules R43, R320, R321). -/
def Obligations.ResetZeroesEveryRegister : Prop :=
  (∀ idx : BitVec 10, hostValue State.reset idx.toNat = 0) ∧
  (∀ (s : State) (rest : List HostAction), s.host = .reset :: rest →
    ∃ t, step s = .next t ∧ sameRegisters t { State.reset with host := t.host, rdata := t.rdata, fresh := t.fresh } ∧
      t.host = rest)

/-- A host read changes no register and answers the element that the register index map of rule R39
names, for every one of the 1024 indices: `STATUS` as rule R23 lays it out, 0 for `CMD` and for an
unmapped index (rule R40; that the value read stands in `rdata` is the model's choice, log entry
3). -/
def Obligations.HostReadHasNoSideEffect : Prop :=
  ∀ (s : State) (idx : BitVec 10) (rest : List HostAction), s.host = .read idx :: rest →
    step s = .next { s with host := rest, rdata := BitVec.ofNat 65 (hostValue s idx.toNat) }

/-- A host write to a read/write element of the map of rule R39 stores the value modulo 2^width, as
the host reads it there; a write to any other index but `CMD` changes no register (rule R40). -/
def Obligations.HostWriteThenRead : Prop :=
  ∀ (s : State) (idx : BitVec 10) (v : Nat) (rest : List HostAction), idx ≠ 0 →
    s.host = .write idx v :: rest →
    ∃ t, step s = .next t ∧
      (∀ k, hostWidth idx.toNat = some k → hostValue t idx.toNat = v % 2 ^ k) ∧
      (hostWidth idx.toNat = none → t = { s with host := rest })

/-- A host write to one index leaves what every other index reads as it was, and the model's own
fields but the action used up (rules R39, R40: one index names one whole element). -/
def Obligations.HostWriteLeavesOtherIndices : Prop :=
  ∀ (s t : State) (idx other : BitVec 10) (v : Nat) (rest : List HostAction),
    idx ≠ 0 → idx ≠ other → s.host = .write idx v :: rest → step s = .next t →
    hostValue t other.toNat = hostValue s other.toNat ∧
      t.host = rest ∧ t.rdata = s.rdata ∧ t.fresh = s.fresh

/-! ### System and BigNum commands (spec/40_system.md, spec/41_bignum.md) -/

/-- `NOP` does the opening clear and nothing else (rule R103). -/
def Obligations.NopClearsTheResultFields : Prop :=
  decode 0 = some .nop ∧
  ∀ s : State, s.status.fault = 0 → exec .nop s = .next { s with status := .zero }

/-- `BN.CLR` sets the BigNum to zero and changes nothing else (rule R111). -/
def Obligations.BnClrSetsZero : Prop :=
  decode 0x0100000000000000 = some .bnClr ∧
  ∀ s : State, s.status.fault = 0 →
    exec .bnClr s = .next { s with status := .zero, n := Vector.replicate 10 0 } ∧
    val (Vector.replicate 10 0) = 0

/-- `BN.LDLO v` puts `v` into limbs 8 and 9, the others 0, so that `val(N) = v`; from 2^22 on it
faults with `N` unchanged (rule R112). -/
def Obligations.BnLdloLoadsTwoLimbs : Prop :=
  (∀ v : Nat, v < 2 ^ 32 → decode (assemble 0x02 0 v) = some (.bnLdlo v)) ∧
  ∀ (s : State) (v : Nat), s.status.fault = 0 →
    (v < 2 ^ 22 → ∃ n : Limbs, exec (.bnLdlo v) s = .next { s with status := .zero, n := n } ∧
      (∀ i : Fin 10, i.val < 8 → n[i] = 0) ∧ n[8].toNat = v / 2048 ∧ n[9].toNat = v % 2048 ∧
      val n = v) ∧
    (2 ^ 22 ≤ v → exec (.bnLdlo v) s = .next { s with status := faultStatus 2 })

/-- `BN.ISZERO` writes 1 to `RES` exactly when every limb is 0, that is when `val(N)` is 0, and else 0
(rule R113). -/
def Obligations.BnIszeroTestsEveryLimb : Prop :=
  decode 0x0300000000000000 = some .bnIszero ∧
  ∀ s : State, s.status.fault = 0 →
    ∃ r : BitVec 32, exec .bnIszero s = .next { s with status := .zero, res := r } ∧
      ((∀ i : Fin 10, s.n[i] = 0) → r = 1) ∧ (¬ (∀ i : Fin 10, s.n[i] = 0) → r = 0) ∧
      ((∀ i : Fin 10, s.n[i] = 0) ↔ val s.n = 0)

/-- `BN.ADD k` adds `k` to `val(N)` exactly when the sum is in 0 .. 2^110 - 1, and else raises
`BN_OVERFLOW`, nothing being said of `N` then (rules R114, R120). -/
def Obligations.BnAddIsExactOrFaults : Prop :=
  (∀ k : Int, -2 ^ 31 ≤ k → k < 2 ^ 31 →
    decode (assemble 0x04 0 (BitVec.ofInt 32 k).toNat) = some (.bnAdd k)) ∧
  ∀ (s : State) (k : Int), s.status.fault = 0 →
    (0 ≤ (val s.n : Int) + k ∧ (val s.n : Int) + k < 2 ^ 110 →
      ∃ n : Limbs, exec (.bnAdd k) s = .next { s with status := .zero, n := n } ∧
        (val n : Int) = val s.n + k) ∧
    (¬ (0 ≤ (val s.n : Int) + k ∧ (val s.n : Int) + k < 2 ^ 110) →
      ∃ n : Limbs, exec (.bnAdd k) s =
        .next { s with status := faultStatus 3, n := n, fresh := s.fresh + 1 })

/-- `BN.MULADD m, a` replaces `val(N)` by `val(N)·m + a` exactly when that is below 2^110, and else
raises `BN_OVERFLOW`, nothing being said of `N` then (rules R115, R120). -/
def Obligations.BnMuladdIsExactOrFaults : Prop :=
  (∀ m a : Nat, m < 2 ^ 20 → a < 2 ^ 32 → decode (assemble 0x05 m a) = some (.bnMuladd m a)) ∧
  ∀ (s : State) (m a : Nat), s.status.fault = 0 →
    (val s.n * m + a < 2 ^ 110 →
      ∃ n : Limbs, exec (.bnMuladd m a) s = .next { s with status := .zero, n := n } ∧
        val n = val s.n * m + a) ∧
    (2 ^ 110 ≤ val s.n * m + a →
      ∃ n : Limbs, exec (.bnMuladd m a) s =
        .next { s with status := faultStatus 3, n := n, fresh := s.fresh + 1 })

/-- `BN.DIVMOD d` leaves the quotient in `N` and the remainder in `RES`; a zero divisor faults with
both unchanged (rule R116). -/
def Obligations.BnDivmodIsFloorDivision : Prop :=
  (∀ d : Nat, d < 2 ^ 20 → decode (assemble 0x06 d 0) = some (.bnDivmod d)) ∧
  ∀ (s : State) (d : Nat), s.status.fault = 0 → d < 2 ^ 20 →
    (1 ≤ d → ∃ (n : Limbs) (r : BitVec 32),
      exec (.bnDivmod d) s = .next { s with status := .zero, n := n, res := r } ∧
      val n = val s.n / d ∧ r.toNat = val s.n % d) ∧
    (d = 0 → exec (.bnDivmod d) s = .next { s with status := faultStatus 4 })

/-- The laws of rule R118: (a) `BN.MULADD m, a` without a fault, then `BN.DIVMOD m`, gives
`RES = a mod m` and `val(N₀) + (a div m)`, the pre-state exactly when `a < m`; (b) `BN.ADD k` without
a fault, then `BN.ADD -k`, restores `N`. -/
def Obligations.BigNumLaws : Prop :=
  (∀ (s t : State) (m a : Nat), s.status.fault = 0 → 1 ≤ m → m < 2 ^ 20 → a < 2 ^ 32 →
    exec (.bnMuladd m a) s = .next t → t.status.fault = 0 →
    ∃ u, exec (.bnDivmod m) t = .next u ∧ u.status = .zero ∧ u.res.toNat = a % m ∧
      val u.n = val s.n + a / m ∧ (u.n = s.n ↔ a < m)) ∧
  (∀ (s t : State) (k : Int), s.status.fault = 0 → -2 ^ 31 < k → k < 2 ^ 31 →
    exec (.bnAdd k) s = .next t → t.status.fault = 0 →
    exec (.bnAdd (-k)) t = .next { s with status := .zero })

/-! ### The frame-check sequence (spec/42_fcs.md) -/

/-- `FCS.CALC` writes the FCS of `N`, as the source's unbounded pseudocode computes it, to `FCS` and
changes nothing else; the rule's three values (rule R131). -/
def Obligations.FcsCalcWritesTheFcs : Prop :=
  decode 0x1000000000000000 = some .fcsCalc ∧
  (∀ s : State, s.status.fault = 0 → ∃ f : BitVec 11,
    exec .fcsCalc s = .next { s with status := .zero, fcs := f } ∧ f.toNat = fcsNat s.n) ∧
  fcsNat (Vector.replicate 10 0) = 0x6E0 ∧ fcsNat (Vector.replicate 10 2047) = 0x21B ∧
  fcsNat #v[0, 0, 0, 0, 34, 545, 29, 1392, 1024, 1201] = 0x051

/-- `FCS.CHK` writes the FCS of `N` to `FCS` and reports `Decoding(4, 4)` exactly when it differs from
`FCSR` (rule R132). -/
def Obligations.FcsChkComparesAllElevenBits : Prop :=
  decode 0x1100000000000000 = some .fcsChk ∧
  ∀ s : State, s.status.fault = 0 → ∃ f : BitVec 11, f.toNat = fcsNat s.n ∧
    (f = s.fcsr → exec .fcsChk s = .next { s with status := .zero, fcs := f }) ∧
    (f ≠ s.fcsr → exec .fcsChk s = .next { s with status := decodingStatus 4 4, fcs := f })

/-- The FCS is affine over exclusive-or (rule R133, first sentence). -/
def Obligations.FcsIsAffine : Prop :=
  ∀ a b : Limbs,
    fcsOf (Vector.ofFn fun i => a[i] ^^^ b[i]) =
      fcsOf a ^^^ fcsOf b ^^^ fcsOf (Vector.replicate 10 0)

/-- Every single-bit change of a limb changes the FCS by a nonzero difference that depends on the
position alone, and the 110 differences are distinct; the rule's four samples (rule R134). -/
def Obligations.FcsDetectsEverySingleBit : Prop :=
  ∃ diff : Fin 10 → Fin 11 → BitVec 11,
    (∀ (n : Limbs) (i : Fin 10) (b : Fin 11),
      fcsOf (n.set i (n[i] ^^^ BitVec.twoPow 11 b)) ^^^ fcsOf n = diff i b) ∧
    (∀ i b, diff i b ≠ 0) ∧
    (∀ i b i' b', diff i b = diff i' b' → i = i' ∧ b = b') ∧
    diff 9 0 = 0x735 ∧ diff 9 10 = 0x172 ∧ diff 0 0 = 0x2B1 ∧ diff 0 10 = 0x51C

/-! ### The tables (spec/43_tables.md) -/

/-- `TBL.ENC i` puts the 13-bit word of index `i` into `RES`; from 1365 on it faults (rule R148). -/
def Obligations.TblEncReadsTheWord : Prop :=
  (∀ i : Nat, i < 2 ^ 32 → decode (assemble 0x18 0 i) = some (.tblEnc i)) ∧
  ∀ (s : State) (i : Nat), s.status.fault = 0 →
    (i ≤ 1364 → ∃ r : BitVec 32, exec (.tblEnc i) s = .next { s with status := .zero, res := r } ∧
      r.toNat = (romEnc i).toNat) ∧
    (1365 ≤ i → exec (.tblEnc i) s = .next { s with status := faultStatus 2 })

/-- `TBL.DEC w` puts the index and the FCS bit of `w` into `RES`, 0x800007FF for an invalid word; from
8192 on it faults (rule R149). -/
def Obligations.TblDecReadsIndexAndBit : Prop :=
  (∀ w : Nat, w < 2 ^ 32 → decode (assemble 0x19 0 w) = some (.tblDec w)) ∧
  ∀ (s : State) (w : Nat), s.status.fault = 0 →
    (w ≤ 8191 → ∃ r : BitVec 32, exec (.tblDec w) s = .next { s with status := .zero, res := r } ∧
      (∀ i, romDec (BitVec.ofNat 13 w) = some i →
        r.toNat = i + 65536 * (romFcs (BitVec.ofNat 13 w)).toNat) ∧
      (romDec (BitVec.ofNat 13 w) = none → r = 0x800007FF)) ∧
    (8192 ≤ w → exec (.tblDec w) s = .next { s with status := faultStatus 2 })

/-- The listing the model reads is what the construction yields: every index 0..1364 is placed once,
with the listed word, and the two ranges are filled exactly (rules R141, R142, R150). -/
def Obligations.ListingIsTheConstruction : Prop :=
  buildTable.placed.length = 1365 ∧
  (∀ x ∈ buildTable.placed, x.1 ≤ 1364 ∧ (romEnc x.1).toNat = x.2) ∧
  (∀ i ≤ 1364, i ∈ buildTable.placed.map Prod.fst) ∧
  buildTable.low5 = 1272 ∧ buildTable.hi5 = 1271 ∧ buildTable.low2 = 1359 ∧ buildTable.hi2 = 1358

/-- `Rom.dec` and `Rom.fcs` invert `Rom.enc` on the forward words and on their complements, and on no
other word (rules R146, R147). -/
def Obligations.DecodeTableInvertsEncodeTable : Prop :=
  (∀ i ≤ 1364, romDec (romEnc i) = some i ∧ romDec (romEnc i ^^^ 0x1FFF) = some i ∧
    romFcs (romEnc i) = 0 ∧ romFcs (romEnc i ^^^ 0x1FFF) = 1) ∧
  (∀ (w : Char13) (i : Nat), romDec w = some i →
    i ≤ 1364 ∧ w = (if romFcs w = 1 then romEnc i ^^^ 0x1FFF else romEnc i)) ∧
  (∀ w : Char13, romDec w = none → romFcs w = 0)

/-- A word is valid exactly when its weight is 2, 5, 8 or 11; forward words have weight 5 or 2 by
their index, complemented words weight 8 or 11; and a single changed bit makes a valid word invalid
(43_tables.md section 2; 46_codewords.md section 4). -/
def Obligations.ValidityIsByWeight : Prop :=
  (∀ w : Char13, romDec w ≠ none ↔
    weight w = 2 ∨ weight w = 5 ∨ weight w = 8 ∨ weight w = 11) ∧
  (∀ i ≤ 1286, weight (romEnc i) = 5) ∧
  (∀ i, 1287 ≤ i → i ≤ 1364 → weight (romEnc i) = 2) ∧
  (∀ (w : Char13) (b : Fin 13), romDec w ≠ none → romDec (w ^^^ BitVec.twoPow 13 b) = none)

/-! ### Symbols (spec/44_layout.md) -/

/-- `SYM.EMIT` renders the ten words: each position has the byte that rule R160's table gives its
descender half `d` and ascender half `a`, `SYM[65]` is 0 and `LEN` 65 (rule R165, for the default
layout, log entry 4). -/
def Obligations.SymEmitRendersTheWords : Prop :=
  decode 0x2800000000000000 = some .symEmit ∧
  ∀ s : State, s.status.fault = 0 →
    ∃ sym : Vector Byte 66,
      exec .symEmit s = .next { s with status := .zero, sym := sym, len := 65 } ∧
      (∀ (p : Fin 65) (d a : Bool),
        d = s.w[layout.descChar[p]].getLsbD layout.descBit[p] →
        a = s.w[layout.ascChar[p]].getLsbD layout.ascBit[p] →
        sym[p.val] =
          if d then (if a then 0x46 else 0x44) else (if a then 0x41 else 0x54)) ∧
      sym[65] = 0

/-- `SYM.PARSE` on 65 symbols gathers every half into its bit: the descender half of `D` (0x44) and
`F` (0x46), the ascender half of `A` (0x41) and `F`; a wrong length or a byte that is no symbol is
reported with `W` unchanged (rules R160, R166, for the default layout, log entry 4). -/
def Obligations.SymParseGathersTheHalves : Prop :=
  decode 0x2900000000000000 = some .symParse ∧
  ∀ s : State, s.status.fault = 0 →
    (s.len = 65 ∧ allSyms (sym65 s) →
      ∃ w : Words, exec .symParse s = .next { s with status := .zero, w := w } ∧
        ∀ p : Fin 65,
          (w[layout.descChar[p]].getLsbD layout.descBit[p] = true ↔
            s.sym[p.val] = 0x44 ∨ s.sym[p.val] = 0x46) ∧
          (w[layout.ascChar[p]].getLsbD layout.ascBit[p] = true ↔
            s.sym[p.val] = 0x41 ∨ s.sym[p.val] = 0x46)) ∧
    (s.len ≠ 65 → exec .symParse s = .next { s with status := decodingStatus 1 0 }) ∧
    (s.len = 65 ∧ ¬ allSyms (sym65 s) →
      exec .symParse s = .next { s with status := decodingStatus 2 0 })

/-- `SYM.FLIP` swaps `A` and `D` below `LEN` and changes nothing else; it is its own inverse (rule
R167). -/
def Obligations.SymFlipIsItsOwnInverse : Prop :=
  decode 0x2A00000000000000 = some .symFlip ∧
  ∀ s : State, s.status.fault = 0 →
    ∃ sym : Vector Byte 66, exec .symFlip s = .next { s with status := .zero, sym := sym } ∧
      (∀ p : Fin 66, p.val < s.len.toNat →
        (s.sym[p] = 0x41 → sym[p] = 0x44) ∧ (s.sym[p] = 0x44 → sym[p] = 0x41) ∧
        (s.sym[p] ≠ 0x41 → s.sym[p] ≠ 0x44 → sym[p] = s.sym[p])) ∧
      (∀ p : Fin 66, s.len.toNat ≤ p.val → sym[p] = s.sym[p]) ∧
      exec .symFlip { s with status := .zero, sym := sym } = .next { s with status := .zero }

/-- For every layout that is a bijection: parsing what was emitted gives the words back; emitting what
was parsed gives the 65 symbols back; and swapping `A` and `D` exchanges the two halves' bits of every
position (rule R168). -/
def Obligations.ParseAndEmitAreInverse : Prop :=
  ∀ L : Layout, L.Bijective →
    (∀ s : State, ∃ t, (symEmit L s).andThen (symParse L) = .ok t ∧ t.w = s.w) ∧
    (∀ s : State, s.len = 65 → allSyms (sym65 s) →
      ∃ t, (symParse L s).andThen (symEmit L) = .ok t ∧ sym65 t = sym65 s) ∧
    (∀ str : Vector Byte 65, allSyms str → ∀ p : Fin 65,
      (gather L (swapped str))[L.descChar[p]].getLsbD L.descBit[p] =
        (gather L str)[L.ascChar[p]].getLsbD L.ascBit[p] ∧
      (gather L (swapped str))[L.ascChar[p]].getLsbD L.ascBit[p] =
        (gather L str)[L.descChar[p]].getLsbD L.descBit[p])

/-! ### The payload (spec/45_payload.md) -/

/-- `PAY.VALIDATE` reports the reason code of the first of the eleven conditions that fails, success
when none does, and changes nothing but `STATUS` (rules R181, R182). -/
def Obligations.ValidateReportsTheFirstFailure : Prop :=
  decode 0x3000000000000000 = some .payValidate ∧
  ∀ s : State, s.status.fault = 0 →
    (validRecord s.record → exec .payValidate s = .next { s with status := .zero }) ∧
    (¬ validRecord s.record →
      exec .payValidate s = .next { s with status := validationStatus (firstFailure s.record) })

/-- `PAY.PACK` of a valid record leaves the payload of rule R180 in `N`, below 2^102; of an invalid
record it changes `STATUS` alone (45_payload.md sections 1 and 3). -/
def Obligations.PackComposesThePayload : Prop :=
  decode 0x3100000000000000 = some .payPack ∧
  ∀ s : State, s.status.fault = 0 →
    (validRecord s.record →
      ∃ n : Limbs, exec .payPack s = .next { s with status := .zero, n := n } ∧
        val n = payloadOf s.record ∧ val n < 2 ^ 102) ∧
    (¬ validRecord s.record →
      exec .payPack s = .next { s with status := validationStatus (firstFailure s.record) })

/-- `PAY.UNPACK` takes the tracking digits and the routing digits apart, whatever `N` holds. It
succeeds exactly when the routing value is at most 101000100000: then `N` is zero, `RPOS` is that of
the routing value's shape, and `REC` holds the digits of `TRACK` and of `ROUTE` from `RPOS` on, a
valid record of that shape whose payload is the value unpacked. Else it reports `Decoding(4, 5)`
with `RPOS` and `REC` unchanged, `N` being what eleven routing digits leave over (rules R30 to R32;
45_payload.md section 4). -/
def Obligations.UnpackTakesThePayloadApart : Prop :=
  decode 0x3200000000000000 = some .payUnpack ∧
  ∀ s : State, s.status.fault = 0 →
    ∃ (track : Vector Digit 20) (route : Vector Digit 11),
      (∀ j : Fin 20, track[j].toNat = trackDigit (val s.n) j) ∧
      (∀ j : Fin 11, route[j].toNat = routeDigit (val s.n / (5 * 10 ^ 19)) j) ∧
      (val s.n / (5 * 10 ^ 19) ≤ lastRouting →
        ∃ (rpos : BitVec 4) (r : Record),
          exec .payUnpack s = .next { s with
            status := .zero, n := Vector.replicate 10 0, res := 1, track := track, route := route
            rpos := rpos, record := r } ∧
          rpos.toNat = (routingShape (val s.n / (5 * 10 ^ 19))).1 ∧
          r.bid.len = 2 ∧ r.stc.len = 3 ∧ r.mid.len = (if track[5] = 9 then 9 else 6) ∧
          r.ser.len = (if track[5] = 9 then 6 else 9) ∧
          r.zip.len = (if rpos = 11 then 0 else 5) ∧
          r.p4.len = (if rpos = 2 ∨ rpos = 0 then 4 else 0) ∧
          r.dp.len = (if rpos = 0 then 2 else 0) ∧
          r.bid.bytes ++ r.stc.bytes ++ r.mid.bytes ++ r.ser.bytes = digitBytes track.toList ∧
          r.zip.bytes ++ r.p4.bytes ++ r.dp.bytes = digitBytes (route.toList.drop rpos.toNat) ∧
          validRecord r ∧ tidyRecord r = r ∧ payloadOf r = val s.n) ∧
      (lastRouting < val s.n / (5 * 10 ^ 19) →
        ∃ n : Limbs,
          exec .payUnpack s = .next { s with
            status := decodingStatus 4 5, n := n, res := 0, track := track, route := route } ∧
          val n = (val s.n / (5 * 10 ^ 19) - 1000100001) / 10 ^ 11)

/-- For a valid record, packing and unpacking succeed, and leave the record as it was exactly when it
meets the mailer condition (rule R187; "as it was" up to the unused bytes, which the unpacker
writes as 0). -/
def Obligations.UnpackOfPackIsTheRecord : Prop :=
  ∀ s : State, s.status.fault = 0 → validRecord s.record →
    ∃ t u, exec .payPack s = .next t ∧ exec .payUnpack t = .next u ∧ u.status = .zero ∧
      (u.record = tidyRecord s.record ↔ mailerCondition s.record)

/-- In the other direction, packing the record that was unpacked gives the value back, for every value
whose routing part is at most 101000100000 (45_payload.md section 4). -/
def Obligations.PackOfUnpackIsThePayload : Prop :=
  ∀ s : State, s.status.fault = 0 → val s.n / (5 * 10 ^ 19) ≤ lastRouting →
    ∃ t u, exec .payUnpack s = .next t ∧ exec .payPack t = .next u ∧ u.status = .zero ∧ u.n = s.n

/-! ### Codewords (spec/46_codewords.md) -/

/-- `CW.SPLIT` below 659·636·1365^8 leaves the mixed-radix digits of `N`, codeword 9 doubled and the
offset 659 on codeword 0 when FCS bit 10 is set; `N` keeps the residue and `RES` the last remainder.
From there on it faults with `CW[0]` unchanged (46_codewords.md sections 1 and 2). -/
def Obligations.SplitGivesMixedRadixDigits : Prop :=
  decode 0x2000000000000000 = some .cwSplit ∧
  ∀ s : State, s.status.fault = 0 →
    (val s.n < splitBound →
      ∃ (n : Limbs) (res : BitVec 32) (cw : Codewords) (d : Fin 10 → Nat),
        exec .cwSplit s = .next { s with status := .zero, n := n, res := res, cw := cw } ∧
        val s.n = mixedRadix [d 0, d 1, d 2, d 3, d 4, d 5, d 6, d 7, d 8] (d 9) ∧
        d 0 ≤ 658 ∧ (∀ i : Fin 10, 1 ≤ i.val → i.val ≤ 8 → d i ≤ 1364 ∧ cw[i].toNat = d i) ∧
        d 9 ≤ 635 ∧ cw[9].toNat = 2 * d 9 ∧
        cw[0].toNat = d 0 + (if s.fcs.getLsbD 10 then 659 else 0) ∧
        val n = d 0 ∧ res.toNat = d 1) ∧
    (splitBound ≤ val s.n →
      ∃ (n : Limbs) (res : BitVec 32) (cw : Codewords),
        exec .cwSplit s = .next { s with status := faultStatus 2, n := n, res := res, cw := cw } ∧
        cw[0] = s.cw[0])

/-- `CW.MAP` maps every codeword to its word, complemented where the FCS bit is 1; a codeword above
1364 faults with `W` unchanged (rule R205). -/
def Obligations.MapFoldsTheFcsIn : Prop :=
  decode 0x2100000000000000 = some .cwMap ∧
  ∀ s : State, s.status.fault = 0 →
    ((∀ i : Fin 10, s.cw[i].toNat ≤ 1364) →
      ∃ w : Words, exec .cwMap s = .next { s with status := .zero, w := w } ∧
        ∀ i : Fin 10, w[i] = romEnc s.cw[i].toNat ^^^ (if s.fcs.getLsbD i then 0x1FFF else 0)) ∧
    ((∃ i : Fin 10, 1364 < s.cw[i].toNat) →
      exec .cwMap s = .next { s with status := faultStatus 2 })

/-- `CW.UNMAP`: an invalid word is reported before a range, a range before the orientation bit, with
no other register changed; otherwise the indices, codeword 9 halved and the offset taken off
codeword 0, and the FCS bits (rule R206). -/
def Obligations.UnmapChecksInOrder : Prop :=
  decode 0x2200000000000000 = some .cwUnmap ∧
  ∀ s : State, s.status.fault = 0 →
    ((∃ i : Fin 10, romDec s.w[i] = none) →
      exec .cwUnmap s = .next { s with status := decodingStatus 4 1 }) ∧
    (∀ x : Fin 10 → Nat, (∀ i : Fin 10, romDec s.w[i] = some (x i)) →
      (x 0 > 1317 ∨ x 9 > 1270 → exec .cwUnmap s = .next { s with status := decodingStatus 4 2 }) ∧
      (x 0 ≤ 1317 → x 9 ≤ 1270 → x 9 % 2 = 1 →
        exec .cwUnmap s = .next { s with status := decodingStatus 4 3 }) ∧
      (x 0 ≤ 1317 → x 9 ≤ 1270 → x 9 % 2 = 0 →
        ∃ (cw : Codewords) (fcsr : BitVec 11),
          exec .cwUnmap s = .next { s with status := .zero, cw := cw, fcsr := fcsr } ∧
          cw[9].toNat = x 9 / 2 ∧ cw[0].toNat = (if 659 ≤ x 0 then x 0 - 659 else x 0) ∧
          (∀ i : Fin 10, 1 ≤ i.val → i.val ≤ 8 → cw[i].toNat = x i) ∧
          (∀ i : Fin 10, fcsr.getLsbD i = (romFcs s.w[i] == 1)) ∧
          fcsr.getLsbD 10 = decide (659 ≤ x 0)))

/-- `CW.JOIN` computes the mixed-radix value of the codeword registers, whatever they hold, below
2^104, and never faults (46_codewords.md section 2). -/
def Obligations.JoinIsTheMixedRadixValue : Prop :=
  decode 0x2300000000000000 = some .cwJoin ∧
  ∀ s : State, s.status.fault = 0 →
    ∃ n : Limbs, exec .cwJoin s = .next { s with status := .zero, n := n } ∧
      val n = mixedRadix [s.cw[0].toNat, s.cw[1].toNat, s.cw[2].toNat, s.cw[3].toNat, s.cw[4].toNat,
        s.cw[5].toNat, s.cw[6].toNat, s.cw[7].toNat, s.cw[8].toNat] s.cw[9].toNat ∧
      val n < 2 ^ 104

/-- `CW.SPLIT`, `CW.MAP`, `CW.UNMAP`, `CW.JOIN` in this order succeed on any `N` below 659·636·1365^8
and any `FCS`, restore `N` and leave `FCSR` = `FCS` (46_codewords.md section 4, part (a)). -/
def Obligations.CodewordChainRestoresThePayload : Prop :=
  ∀ s : State, s.status.fault = 0 → val s.n < splitBound →
    ∃ a b c d, exec .cwSplit s = .next a ∧ exec .cwMap a = .next b ∧ exec .cwUnmap b = .next c ∧
      exec .cwJoin c = .next d ∧ d.status = .zero ∧ d.n = s.n ∧ d.fcsr = s.fcs ∧ d.fcs = s.fcs

/-! ### The encoder (spec/47_encode.md) -/

/-- `ENCODE` of a valid record ends in the state that the five commands one after the other end in,
register for register; of an invalid record it ends as `PAY.PACK` alone does (rule R220). -/
def Obligations.EncodeIsItsFiveCommands : Prop :=
  ∀ s : State, s.status.fault = 0 →
    (validRecord s.record →
      ∃ a b c d t, exec .payPack s = .next a ∧ exec .fcsCalc a = .next b ∧ exec .cwSplit b = .next c ∧
        exec .cwMap c = .next d ∧ exec .symEmit d = .next t ∧ exec .encodeRec s = .next t ∧
        t.status = .zero) ∧
    (¬ validRecord s.record → exec .encodeRec s = exec .payPack s)

/-- `ENCODE` of a valid record writes its barcode, 65 symbols each `A`, `D`, `F` or `T`, with `LEN` 65
and `SYM[65]` 0; of an invalid record it changes `STATUS` alone (47_encode.md sections 1 and 3; the
strings are those of the default layout, log entry 4). -/
def Obligations.EncodeWritesTheBarcode : Prop :=
  decode 0x4000000000000000 = some .encodeRec ∧
  ∀ s : State, s.status.fault = 0 →
    (validRecord s.record →
      ∃ t, exec .encodeRec s = .next t ∧ t.status = .zero ∧ t.len = 65 ∧ t.sym[65] = 0 ∧
        sym65 t = barcodeOf layout s.record ∧ allSyms (sym65 t) ∧
        t.fcsr = s.fcsr ∧ t.track = s.track ∧ t.route = s.route ∧ t.rpos = s.rpos ∧ t.sug = s.sug ∧
        t.diff = s.diff ∧ t.repinfo = s.repinfo ∧ t.record = s.record) ∧
    (¬ validRecord s.record →
      exec .encodeRec s = .next { s with status := validationStatus (firstFailure s.record) })

/-- After a successful `ENCODE`, `LEN` = 65 and each of `SYM[0..64]` is one of the four symbol bytes
(rule R223). -/
def Obligations.EncodeOutputShape : Prop :=
  ∀ s t : State, s.status.fault = 0 → exec .encodeRec s = .next t → succeeded t = true →
    t.len = 65 ∧ ∀ p : Fin 65,
      t.sym[p.val] = 0x41 ∨ t.sym[p.val] = 0x44 ∨ t.sym[p.val] = 0x46 ∨ t.sym[p.val] = 0x54

/-- Two valid records have the same barcode exactly when they have the same payload: distinct payloads
give distinct strings (47_encode.md section 3). -/
def Obligations.BarcodesAreInjectiveOnPayloads : Prop :=
  ∀ r r' : Record, validRecord r → validRecord r' →
    (barcodeOf layout r = barcodeOf layout r' ↔ payloadOf r = payloadOf r')

/-! ### The strict decoder (spec/48_decode.md) -/

/-- `DEC.STRICT`, and `DECODE` too, on the barcode of a valid record that meets the mailer condition
completes clean and returns the record, with no suggestion and no repair (48_decode.md section 3). -/
def Obligations.DecodeOfBarcodeIsTheRecord : Prop :=
  ∀ (s : State) (r : Record), s.status.fault = 0 → s.len = 65 → validRecord r → mailerCondition r →
    sym65 s = barcodeOf layout r →
    ∃ t, exec .decStrict s = .next t ∧ exec .decodeSym s = .next t ∧ t.status = .zero ∧
      t.record = tidyRecord r ∧ t.sug = Vector.replicate 65 0 ∧ t.diff = 0 ∧ t.repinfo = 0 ∧
      t.sym = s.sym ∧ t.len = s.len ∧ t.host = s.host ∧ t.rdata = s.rdata ∧ t.fresh = s.fresh

/-- `DEC.STRICT` ends as the first of its five commands that fails, run one after the other from the
cleared `REPINFO`, `DIFF`, `SUG` and `REC`, or as the last when none fails, register for register;
`CW.JOIN` never fails. It succeeds on exactly the 65-symbol strings that are barcodes of valid
records, never changes `SYM` and `LEN`, always clears `SUG`, `DIFF` and `REPINFO`, and returns a
record with that barcode or none (rules R232, R233, R235; order 6 of rule R291). -/
def Obligations.StrictDecoderAcceptsExactlyBarcodes : Prop :=
  decode 0x4900000000000000 = some .decStrict ∧
  ∀ s : State, s.status.fault = 0 →
    ∃ t, exec .decStrict s = .next t ∧ t.sym = s.sym ∧ t.len = s.len ∧ t.repinfo = 0 ∧
      t.sug = Vector.replicate 65 0 ∧ t.diff = 0 ∧
      (succeeded t = true ↔ s.len = 65 ∧ isBarcode (sym65 s)) ∧
      (succeeded t = true → validRecord t.record ∧ sym65 s = barcodeOf layout t.record) ∧
      (succeeded t = false → t.record = .absent) ∧
      ∃ a b c d e,
        exec .symParse { s with
          repinfo := 0, diff := 0, sug := Vector.replicate 65 0, record := .absent } = .next a ∧
        exec .cwUnmap a = .next b ∧ exec .cwJoin b = .next c ∧ exec .fcsChk c = .next d ∧
        exec .payUnpack d = .next e ∧ succeeded c = true ∧
        (succeeded a = false → t = a) ∧
        (succeeded a = true → succeeded b = false → t = b) ∧
        (succeeded a = true → succeeded b = true → succeeded d = false → t = d) ∧
        (succeeded a = true → succeeded b = true → succeeded d = true → t = e)

/-! ### Recovery (spec/49_recovery.md) -/

/-- `REP.LEN` on 64 or 66 symbols: the first candidate with the fewest invalid words replaces the input
when that count is below 5, `REPINFO` says which, `RES` holds the count; otherwise `Decoding(4, 6)`
with `SYM` and `LEN` unchanged (49_recovery.md section 2). -/
def Obligations.LengthRepairKeepsTheFirstBest : Prop :=
  decode 0x4A00000000000000 = some .repLen ∧
  ∀ s : State, s.status.fault = 0 → (s.len = 64 ∨ s.len = 66) →
    inputSymbols s →
    ∃ (t : State) (j : Nat), exec .repLen s = .next t ∧ j < candidateCount s ∧
      (∀ k < candidateCount s, candidateBad s j ≤ candidateBad s k) ∧
      (∀ k < j, candidateBad s j < candidateBad s k) ∧
      t.res.toNat = candidateBad s j ∧ t.record = s.record ∧ t.sug = Vector.replicate 65 0 ∧
      t.diff = 0 ∧ t.host = s.host ∧ t.rdata = s.rdata ∧
      (candidateBad s j < 5 →
        t.status = .zero ∧ t.len = 65 ∧ t.sym[65] = 0 ∧
        (∀ p : Fin 65, t.sym[p.val] = candidateSymbol s j p.val) ∧
        t.repinfo = BitVec.ofNat 9 ((if s.len = 64 then 128 else 256) + j)) ∧
      (5 ≤ candidateBad s j →
        t.status = decodingStatus 4 6 ∧ t.sym = s.sym ∧ t.len = s.len ∧ t.repinfo = 0)

/-- `REP.FLIP` on 65 symbols succeeds exactly when the product of the plausible lists is at most 1000
and exactly one tuple decodes; it then returns that tuple's record, its rendering and the positions
where it differs. The lists hold the word itself if it is valid, else exactly its valid one-bit
neighbours (rule R256), and the tuples take one word of each list, every tuple once. `NO_PLAUSIBLE` comes before `TOO_MANY` before `NO_SUCCESS` and `AMBIGUOUS`; a
failure leaves no record and no suggestion (49_recovery.md section 3). -/
def Obligations.FlipRepairNeedsOneTuple : Prop :=
  decode 0x4B00000000000000 = some .repFlip ∧
  (∀ w x : Char13, x ∈ plausible w ↔
    if (romDec w).isSome then x = w
    else (romDec x).isSome ∧ ∃ b : Fin 13, x = w ^^^ BitVec.twoPow 13 b) ∧
  (∀ ws : Words,
    (∀ x : Words, x ∈ tuples (plausibles ws) ↔ ∀ i : Fin 10, x[i] ∈ plausible ws[i]) ∧
    (tuples (plausibles ws)).Nodup ∧
    productOf (plausibles ws) = (tuples (plausibles ws)).length) ∧
  ∀ s : State, s.status.fault = 0 → s.len = 65 → allSyms (sym65 s) →
    ∃ t, exec .repFlip s = .next t ∧ t.sym = s.sym ∧ t.len = s.len ∧ t.repinfo = s.repinfo ∧
      t.host = s.host ∧ t.rdata = s.rdata ∧
      (succeeded t = false → t.record = .absent ∧ t.sug = Vector.replicate 65 0 ∧ t.diff = 0) ∧
      (let ps := plausibles (gather layout (sym65 s))
       let good := (tuples ps).filter fun w => (recordOfWords w).isSome
       ([] ∈ ps → t.status = decodingStatus 4 7) ∧
       ([] ∉ ps → productOf ps > 1000 → t.status = decodingStatus 4 8) ∧
       ([] ∉ ps → productOf ps ≤ 1000 → good.length = 0 → t.status = decodingStatus 4 9) ∧
       ([] ∉ ps → productOf ps ≤ 1000 → 2 ≤ good.length → t.status = decodingStatus 4 10) ∧
       ([] ∉ ps → productOf ps ≤ 1000 → ∀ w, good = [w] →
         t.status = repairedStatus ∧ recordOfWords w = some t.record ∧ t.sug = render layout w ∧
         ∀ p : Fin 65, t.diff.getLsbD p = decide (t.sug[p] ≠ s.sym[p.val])))

/-- `REP.FLIP` on the barcode of a valid record that meets the mailer condition completes with
`REPAIR` = 1, the record, the string itself as the suggestion and no position (49_recovery.md
section 3: "also when all ten words were valid already"). -/
def Obligations.FlipRepairOfABarcode : Prop :=
  ∀ (s : State) (r : Record), s.status.fault = 0 → s.len = 65 → validRecord r → mailerCondition r →
    sym65 s = barcodeOf layout r →
    ∃ t, exec .repFlip s = .next t ∧ t.status = repairedStatus ∧ t.record = tidyRecord r ∧
      t.sug = sym65 s ∧ t.diff = 0 ∧ t.sym = s.sym ∧ t.len = s.len ∧ t.repinfo = s.repinfo

/-- `DEC.ORIENT` reports `upside down` with `RES` = 1 exactly when the swapped string is a barcode, else
`RES` = 0 and no error; `SYM` is as before and no record is returned (49_recovery.md section 4). -/
def Obligations.OrientationDetectsSwappedBarcodes : Prop :=
  decode 0x4C00000000000000 = some .decOrient ∧
  ∀ s : State, s.status.fault = 0 →
    ∃ t, exec .decOrient s = .next t ∧ t.sym = s.sym ∧ t.len = s.len ∧ t.record = .absent ∧
      t.sug = Vector.replicate 65 0 ∧ t.diff = 0 ∧ t.repinfo = 0 ∧ t.host = s.host ∧
      t.rdata = s.rdata ∧
      (s.len = 65 ∧ isBarcode (swapped (sym65 s)) → t.status = decodingStatus 3 0 ∧ t.res = 1) ∧
      (¬ (s.len = 65 ∧ isBarcode (swapped (sym65 s))) → t.status = .zero ∧ t.res = 0)

/-- `DECODE` of 65 symbols is its phases in order: strict, then bit-flip repair, then orientation
(49_recovery.md section 5). -/
def Obligations.DecodeOf65IsItsPhases : Prop :=
  decode 0x4800000000000000 = some .decodeSym ∧
  ∀ s : State, s.status.fault = 0 → s.len = 65 → allSyms (sym65 s) →
    ∃ a b c t, exec .decStrict s = .next a ∧ exec .repFlip s = .next b ∧
      exec .decOrient s = .next c ∧ exec .decodeSym s = .next t ∧
      t.sym = s.sym ∧ t.len = s.len ∧ t.repinfo = 0 ∧
      (succeeded a = true → t = a) ∧
      (succeeded a = false → succeeded b = true →
        t.status = b.status ∧ t.record = b.record ∧ t.sug = b.sug ∧ t.diff = b.diff) ∧
      (succeeded a = false → succeeded b = false →
        t.record = .absent ∧ t.sug = Vector.replicate 65 0 ∧ t.diff = 0 ∧
        (succeeded c = false → t.status = c.status) ∧ (succeeded c = true → t.status = b.status))

/-- `DECODE` of 64 or 66 symbols is length repair, then bit-flip repair of the candidate, with the
sub-reason `length` for any failure; no orientation detection (49_recovery.md section 5). -/
def Obligations.DecodeOf64Or66IsItsPhases : Prop :=
  ∀ s : State, s.status.fault = 0 → (s.len = 64 ∨ s.len = 66) →
    inputSymbols s →
    ∃ a b t, exec .repLen s = .next a ∧ exec .repFlip a = .next b ∧ exec .decodeSym s = .next t ∧
      t.sym = a.sym ∧ t.len = a.len ∧ t.repinfo = a.repinfo ∧
      (succeeded a = false → t.status = decodingStatus 1 6 ∧ t.sym = s.sym ∧ t.len = s.len) ∧
      (succeeded a = true → succeeded b = true →
        t.status = repairedStatus ∧ t.record = b.record ∧ t.sug = b.sug ∧ t.diff = b.diff) ∧
      (succeeded a = true → succeeded b = false → t.status = decodingStatus 1 b.status.detail) ∧
      (succeeded t = false → t.record = .absent ∧ t.sug = Vector.replicate 65 0 ∧ t.diff = 0)

/-- Every decode command reports a length it does not accept as `Decoding(1, 0)`, and else a byte that
is no symbol as `Decoding(2, 0)`, with `SYM` and `LEN` as they were and `SUG` and `DIFF` cleared.
`DECODE`, `DEC.STRICT` and `REP.FLIP` leave `REC` absent, `REP.LEN` leaves it as it was; all but
`REP.FLIP` clear `REPINFO` (48_decode.md sections 1 and 2; 49_recovery.md sections 2, 3 and 5). -/
def Obligations.UnacceptableInputIsReportedFirst : Prop :=
  ∀ s : State, s.status.fault = 0 →
    ∃ l f d c, exec .repLen s = .next l ∧ exec .repFlip s = .next f ∧ exec .decodeSym s = .next d ∧
      exec .decStrict s = .next c ∧
      (s.len ≠ 64 → s.len ≠ 66 → rejected s l (decodingStatus 1 0) s.record 0) ∧
      (s.len = 64 ∨ s.len = 66 → ¬ inputSymbols s → rejected s l (decodingStatus 2 0) s.record 0) ∧
      (s.len ≠ 65 → rejected s f (decodingStatus 1 0) .absent s.repinfo) ∧
      (s.len = 65 → ¬ allSyms (sym65 s) → rejected s f (decodingStatus 2 0) .absent s.repinfo) ∧
      (s.len ≠ 64 → s.len ≠ 65 → s.len ≠ 66 → rejected s d (decodingStatus 1 0) .absent 0) ∧
      (s.len = 64 ∨ s.len = 65 ∨ s.len = 66 → ¬ inputSymbols s →
        rejected s d (decodingStatus 2 0) .absent 0) ∧
      (s.len ≠ 65 → rejected s c (decodingStatus 1 0) .absent 0) ∧
      (s.len = 65 → ¬ allSyms (sym65 s) → rejected s c (decodingStatus 2 0) .absent 0)

/-- One changed symbol of a barcode is never decoded to a wrong record: `DECODE` gives the record, the
barcode as the suggestion and exactly the changed position, or it reports an ambiguous or an
upside-down input (49_recovery.md section 6, for the default layout). -/
def Obligations.SingleSymbolDamageIsNeverMiscoded : Prop :=
  ∀ (s : State) (r : Record) (p : Fin 65), s.status.fault = 0 → s.len = 65 → validRecord r →
    mailerCondition r → allSyms (sym65 s) →
    (∀ q : Fin 65, (sym65 s)[q] ≠ (barcodeOf layout r)[q] ↔ q = p) →
    ∃ t, exec .decodeSym s = .next t ∧
      ((t.status = repairedStatus ∧ t.record = tidyRecord r ∧ t.sug = barcodeOf layout r ∧
          t.diff = BitVec.twoPow 65 p) ∨
        (t.status = decodingStatus 4 10 ∧ t.record = .absent) ∨
        (t.status = decodingStatus 3 0 ∧ t.record = .absent))

/-! ### The whole machine (spec/60_exceptions.md, spec/70_reset_and_hazards.md) -/

/-- Every command ends in one of the ways that the table of rule R287 gives it, or succeeds; and it
leaves the host's actions to come and the last value read as they were (20_memory.md section 4: no
host access is interleaved with a command). -/
def Obligations.CommandsEndAsTabled : Prop :=
  ∀ (i : Instr) (s : State), s.status.fault = 0 →
    ∃ t, exec i s = .next t ∧ t.status ∈ endings i ∧ t.host = s.host ∧ t.rdata = s.rdata

/-- Every step keeps the invariant: legal `STATUS`, legal `REPINFO`, legal suggestion
(10_state.md sections 3 and 5). -/
def Obligations.EveryStepKeepsTheInvariant : Prop :=
  ∀ s t : State, Inv s → step s = .next t → Inv t

/-- The invariant holds after reset. -/
def Obligations.ResetHasTheInvariant : Prop := Inv State.reset
end

