-- ==== Sys2Proof/Laws/State.lean ====
section
/-! SUPPORT. What each shared update leaves in each field of the state, one lemma a field, and what
each update of `STATUS` leaves in each of its fields. -/

namespace Sys2Proof.Machine

/-! ### `STATUS` -/

@[simp] theorem cleared_kind (t : Status) : t.cleared.kind = 0 := rfl
@[simp] theorem cleared_reason (t : Status) : t.cleared.reason = 0 := rfl
@[simp] theorem cleared_detail (t : Status) : t.cleared.detail = 0 := rfl
@[simp] theorem cleared_repair (t : Status) : t.cleared.repair = 0 := rfl
@[simp] theorem cleared_fault (t : Status) : t.cleared.fault = t.fault := rfl
@[simp] theorem takeRaise_validation_status (r : ValReason) (s : State) :
    (takeRaise (.validation r) s).status = s.status.withValidation r := rfl
@[simp] theorem takeRaise_decoding_status (r : DecReason) (dt : Detail) (s : State) :
    (takeRaise (.decoding r dt) s).status = s.status.withDecoding r dt := rfl
@[simp] theorem takeRaise_fault_status (f : FaultCode) (s : State) :
    (takeRaise (.fault f) s).status = s.status.withFault f := rfl

/-- The opening clear of an accepted command leaves `STATUS` zero (rules R101, R102). -/
theorem cleared_of_fault_zero (t : Status) (h : t.fault = 0) : t.cleared = .zero := by
  cases t; simp_all [Status.cleared, Status.zero]

/-- The opening clear of a core that is not faulted. -/
theorem openingClear_eq (s : State) (h : s.status.fault = 0) :
    openingClear s = { s with status := .zero } := by
  simp [openingClear, cleared_of_fault_zero _ h]

/-! ### `openingClear`: only `STATUS` changes (rule R101) -/

@[simp] theorem openingClear_status (s : State) : (openingClear s).status = s.status.cleared := rfl
@[simp] theorem openingClear_res (s : State) : (openingClear s).res = s.res := rfl
@[simp] theorem openingClear_n (s : State) : (openingClear s).n = s.n := rfl
@[simp] theorem openingClear_fcs (s : State) : (openingClear s).fcs = s.fcs := rfl
@[simp] theorem openingClear_fcsr (s : State) : (openingClear s).fcsr = s.fcsr := rfl
@[simp] theorem openingClear_cw (s : State) : (openingClear s).cw = s.cw := rfl
@[simp] theorem openingClear_w (s : State) : (openingClear s).w = s.w := rfl
@[simp] theorem openingClear_track (s : State) : (openingClear s).track = s.track := rfl
@[simp] theorem openingClear_route (s : State) : (openingClear s).route = s.route := rfl
@[simp] theorem openingClear_rpos (s : State) : (openingClear s).rpos = s.rpos := rfl
@[simp] theorem openingClear_sym (s : State) : (openingClear s).sym = s.sym := rfl
@[simp] theorem openingClear_len (s : State) : (openingClear s).len = s.len := rfl
@[simp] theorem openingClear_record (s : State) : (openingClear s).record = s.record := rfl
@[simp] theorem openingClear_sug (s : State) : (openingClear s).sug = s.sug := rfl
@[simp] theorem openingClear_diff (s : State) : (openingClear s).diff = s.diff := rfl
@[simp] theorem openingClear_repinfo (s : State) : (openingClear s).repinfo = s.repinfo := rfl
@[simp] theorem openingClear_host (s : State) : (openingClear s).host = s.host := rfl
@[simp] theorem openingClear_rdata (s : State) : (openingClear s).rdata = s.rdata := rfl
@[simp] theorem openingClear_fresh (s : State) : (openingClear s).fresh = s.fresh := rfl

/-! ### `takeRaise`: only `STATUS` changes (rules R284 to R286) -/

@[simp] theorem takeRaise_res (e : Raise) (s : State) : (takeRaise e s).res = s.res := by cases e <;> rfl
@[simp] theorem takeRaise_n (e : Raise) (s : State) : (takeRaise e s).n = s.n := by cases e <;> rfl
@[simp] theorem takeRaise_fcs (e : Raise) (s : State) : (takeRaise e s).fcs = s.fcs := by cases e <;> rfl
@[simp] theorem takeRaise_fcsr (e : Raise) (s : State) : (takeRaise e s).fcsr = s.fcsr := by cases e <;> rfl
@[simp] theorem takeRaise_cw (e : Raise) (s : State) : (takeRaise e s).cw = s.cw := by cases e <;> rfl
@[simp] theorem takeRaise_w (e : Raise) (s : State) : (takeRaise e s).w = s.w := by cases e <;> rfl
@[simp] theorem takeRaise_track (e : Raise) (s : State) : (takeRaise e s).track = s.track := by cases e <;> rfl
@[simp] theorem takeRaise_route (e : Raise) (s : State) : (takeRaise e s).route = s.route := by cases e <;> rfl
@[simp] theorem takeRaise_rpos (e : Raise) (s : State) : (takeRaise e s).rpos = s.rpos := by cases e <;> rfl
@[simp] theorem takeRaise_sym (e : Raise) (s : State) : (takeRaise e s).sym = s.sym := by cases e <;> rfl
@[simp] theorem takeRaise_len (e : Raise) (s : State) : (takeRaise e s).len = s.len := by cases e <;> rfl
@[simp] theorem takeRaise_record (e : Raise) (s : State) : (takeRaise e s).record = s.record := by cases e <;> rfl
@[simp] theorem takeRaise_sug (e : Raise) (s : State) : (takeRaise e s).sug = s.sug := by cases e <;> rfl
@[simp] theorem takeRaise_diff (e : Raise) (s : State) : (takeRaise e s).diff = s.diff := by cases e <;> rfl
@[simp] theorem takeRaise_repinfo (e : Raise) (s : State) : (takeRaise e s).repinfo = s.repinfo := by cases e <;> rfl
@[simp] theorem takeRaise_host (e : Raise) (s : State) : (takeRaise e s).host = s.host := by cases e <;> rfl
@[simp] theorem takeRaise_rdata (e : Raise) (s : State) : (takeRaise e s).rdata = s.rdata := by cases e <;> rfl
@[simp] theorem takeRaise_fresh (e : Raise) (s : State) : (takeRaise e s).fresh = s.fresh := by cases e <;> rfl

/-! ### `resetEvent`: every register is 0 (rule R321) -/

@[simp] theorem resetEvent_status (s : State) : (resetEvent s).status = .zero := rfl
@[simp] theorem resetEvent_res (s : State) : (resetEvent s).res = 0 := rfl
@[simp] theorem resetEvent_n (s : State) : (resetEvent s).n = Vector.replicate 10 0 := rfl
@[simp] theorem resetEvent_fcs (s : State) : (resetEvent s).fcs = 0 := rfl
@[simp] theorem resetEvent_fcsr (s : State) : (resetEvent s).fcsr = 0 := rfl
@[simp] theorem resetEvent_cw (s : State) : (resetEvent s).cw = Vector.replicate 10 0 := rfl
@[simp] theorem resetEvent_w (s : State) : (resetEvent s).w = Vector.replicate 10 0 := rfl
@[simp] theorem resetEvent_track (s : State) : (resetEvent s).track = Vector.replicate 20 0 := rfl
@[simp] theorem resetEvent_route (s : State) : (resetEvent s).route = Vector.replicate 11 0 := rfl
@[simp] theorem resetEvent_rpos (s : State) : (resetEvent s).rpos = 0 := rfl
@[simp] theorem resetEvent_sym (s : State) : (resetEvent s).sym = Vector.replicate 66 0 := rfl
@[simp] theorem resetEvent_len (s : State) : (resetEvent s).len = 0 := rfl
@[simp] theorem resetEvent_record (s : State) : (resetEvent s).record = .absent := rfl
@[simp] theorem resetEvent_sug (s : State) : (resetEvent s).sug = Vector.replicate 65 0 := rfl
@[simp] theorem resetEvent_diff (s : State) : (resetEvent s).diff = 0 := rfl
@[simp] theorem resetEvent_repinfo (s : State) : (resetEvent s).repinfo = 0 := rfl
@[simp] theorem resetEvent_host (s : State) : (resetEvent s).host = s.host := rfl
@[simp] theorem resetEvent_rdata (s : State) : (resetEvent s).rdata = s.rdata := rfl
@[simp] theorem resetEvent_fresh (s : State) : (resetEvent s).fresh = s.fresh := rfl

/-! ### `loseLimbs`: `N` becomes a free value (rule R120) -/

@[simp] theorem loseLimbs_status (s : State) : (loseLimbs s).status = s.status := rfl
@[simp] theorem loseLimbs_res (s : State) : (loseLimbs s).res = s.res := rfl
@[simp] theorem loseLimbs_n (s : State) : (loseLimbs s).n = Config.freeLimbs s.fresh := rfl
@[simp] theorem loseLimbs_fcs (s : State) : (loseLimbs s).fcs = s.fcs := rfl
@[simp] theorem loseLimbs_fcsr (s : State) : (loseLimbs s).fcsr = s.fcsr := rfl
@[simp] theorem loseLimbs_cw (s : State) : (loseLimbs s).cw = s.cw := rfl
@[simp] theorem loseLimbs_w (s : State) : (loseLimbs s).w = s.w := rfl
@[simp] theorem loseLimbs_track (s : State) : (loseLimbs s).track = s.track := rfl
@[simp] theorem loseLimbs_route (s : State) : (loseLimbs s).route = s.route := rfl
@[simp] theorem loseLimbs_rpos (s : State) : (loseLimbs s).rpos = s.rpos := rfl
@[simp] theorem loseLimbs_sym (s : State) : (loseLimbs s).sym = s.sym := rfl
@[simp] theorem loseLimbs_len (s : State) : (loseLimbs s).len = s.len := rfl
@[simp] theorem loseLimbs_record (s : State) : (loseLimbs s).record = s.record := rfl
@[simp] theorem loseLimbs_sug (s : State) : (loseLimbs s).sug = s.sug := rfl
@[simp] theorem loseLimbs_diff (s : State) : (loseLimbs s).diff = s.diff := rfl
@[simp] theorem loseLimbs_repinfo (s : State) : (loseLimbs s).repinfo = s.repinfo := rfl
@[simp] theorem loseLimbs_host (s : State) : (loseLimbs s).host = s.host := rfl
@[simp] theorem loseLimbs_rdata (s : State) : (loseLimbs s).rdata = s.rdata := rfl
@[simp] theorem loseLimbs_fresh (s : State) : (loseLimbs s).fresh = s.fresh + 1 := rfl

/-! ### `loseScratch`: the scratch registers become free values (rule R44) -/

@[simp] theorem loseScratch_status (s : State) : (loseScratch s).status = s.status := rfl
@[simp] theorem loseScratch_res (s : State) : (loseScratch s).res = (Config.freeScratch s.fresh).res := rfl
@[simp] theorem loseScratch_n (s : State) : (loseScratch s).n = (Config.freeScratch s.fresh).n := rfl
@[simp] theorem loseScratch_fcs (s : State) : (loseScratch s).fcs = (Config.freeScratch s.fresh).fcs := rfl
@[simp] theorem loseScratch_fcsr (s : State) : (loseScratch s).fcsr = (Config.freeScratch s.fresh).fcsr := rfl
@[simp] theorem loseScratch_cw (s : State) : (loseScratch s).cw = (Config.freeScratch s.fresh).cw := rfl
@[simp] theorem loseScratch_w (s : State) : (loseScratch s).w = (Config.freeScratch s.fresh).w := rfl
@[simp] theorem loseScratch_track (s : State) : (loseScratch s).track = (Config.freeScratch s.fresh).track := rfl
@[simp] theorem loseScratch_route (s : State) : (loseScratch s).route = (Config.freeScratch s.fresh).route := rfl
@[simp] theorem loseScratch_rpos (s : State) : (loseScratch s).rpos = (Config.freeScratch s.fresh).rpos := rfl
@[simp] theorem loseScratch_sym (s : State) : (loseScratch s).sym = s.sym := rfl
@[simp] theorem loseScratch_len (s : State) : (loseScratch s).len = s.len := rfl
@[simp] theorem loseScratch_record (s : State) : (loseScratch s).record = s.record := rfl
@[simp] theorem loseScratch_sug (s : State) : (loseScratch s).sug = s.sug := rfl
@[simp] theorem loseScratch_diff (s : State) : (loseScratch s).diff = s.diff := rfl
@[simp] theorem loseScratch_repinfo (s : State) : (loseScratch s).repinfo = s.repinfo := rfl
@[simp] theorem loseScratch_host (s : State) : (loseScratch s).host = s.host := rfl
@[simp] theorem loseScratch_rdata (s : State) : (loseScratch s).rdata = s.rdata := rfl
@[simp] theorem loseScratch_fresh (s : State) : (loseScratch s).fresh = s.fresh + 1 := rfl

/-! ### `loseScratchButRes`: the scratch registers but `RES` become free values -/

@[simp] theorem loseScratchButRes_status (s : State) : (loseScratchButRes s).status = s.status := rfl
@[simp] theorem loseScratchButRes_res (s : State) : (loseScratchButRes s).res = s.res := rfl
@[simp] theorem loseScratchButRes_n (s : State) : (loseScratchButRes s).n = (Config.freeScratch s.fresh).n := rfl
@[simp] theorem loseScratchButRes_fcs (s : State) : (loseScratchButRes s).fcs = (Config.freeScratch s.fresh).fcs := rfl
@[simp] theorem loseScratchButRes_fcsr (s : State) : (loseScratchButRes s).fcsr = (Config.freeScratch s.fresh).fcsr := rfl
@[simp] theorem loseScratchButRes_cw (s : State) : (loseScratchButRes s).cw = (Config.freeScratch s.fresh).cw := rfl
@[simp] theorem loseScratchButRes_w (s : State) : (loseScratchButRes s).w = (Config.freeScratch s.fresh).w := rfl
@[simp] theorem loseScratchButRes_track (s : State) : (loseScratchButRes s).track = (Config.freeScratch s.fresh).track := rfl
@[simp] theorem loseScratchButRes_route (s : State) : (loseScratchButRes s).route = (Config.freeScratch s.fresh).route := rfl
@[simp] theorem loseScratchButRes_rpos (s : State) : (loseScratchButRes s).rpos = (Config.freeScratch s.fresh).rpos := rfl
@[simp] theorem loseScratchButRes_sym (s : State) : (loseScratchButRes s).sym = s.sym := rfl
@[simp] theorem loseScratchButRes_len (s : State) : (loseScratchButRes s).len = s.len := rfl
@[simp] theorem loseScratchButRes_record (s : State) : (loseScratchButRes s).record = s.record := rfl
@[simp] theorem loseScratchButRes_sug (s : State) : (loseScratchButRes s).sug = s.sug := rfl
@[simp] theorem loseScratchButRes_diff (s : State) : (loseScratchButRes s).diff = s.diff := rfl
@[simp] theorem loseScratchButRes_repinfo (s : State) : (loseScratchButRes s).repinfo = s.repinfo := rfl
@[simp] theorem loseScratchButRes_host (s : State) : (loseScratchButRes s).host = s.host := rfl
@[simp] theorem loseScratchButRes_rdata (s : State) : (loseScratchButRes s).rdata = s.rdata := rfl
@[simp] theorem loseScratchButRes_fresh (s : State) : (loseScratchButRes s).fresh = s.fresh + 1 := rfl

/-! ### `clearRecord`: every field absent (rule R233) -/

@[simp] theorem clearRecord_status (s : State) : (clearRecord s).status = s.status := rfl
@[simp] theorem clearRecord_res (s : State) : (clearRecord s).res = s.res := rfl
@[simp] theorem clearRecord_n (s : State) : (clearRecord s).n = s.n := rfl
@[simp] theorem clearRecord_fcs (s : State) : (clearRecord s).fcs = s.fcs := rfl
@[simp] theorem clearRecord_fcsr (s : State) : (clearRecord s).fcsr = s.fcsr := rfl
@[simp] theorem clearRecord_cw (s : State) : (clearRecord s).cw = s.cw := rfl
@[simp] theorem clearRecord_w (s : State) : (clearRecord s).w = s.w := rfl
@[simp] theorem clearRecord_track (s : State) : (clearRecord s).track = s.track := rfl
@[simp] theorem clearRecord_route (s : State) : (clearRecord s).route = s.route := rfl
@[simp] theorem clearRecord_rpos (s : State) : (clearRecord s).rpos = s.rpos := rfl
@[simp] theorem clearRecord_sym (s : State) : (clearRecord s).sym = s.sym := rfl
@[simp] theorem clearRecord_len (s : State) : (clearRecord s).len = s.len := rfl
@[simp] theorem clearRecord_record (s : State) : (clearRecord s).record = .absent := rfl
@[simp] theorem clearRecord_sug (s : State) : (clearRecord s).sug = s.sug := rfl
@[simp] theorem clearRecord_diff (s : State) : (clearRecord s).diff = s.diff := rfl
@[simp] theorem clearRecord_repinfo (s : State) : (clearRecord s).repinfo = s.repinfo := rfl
@[simp] theorem clearRecord_host (s : State) : (clearRecord s).host = s.host := rfl
@[simp] theorem clearRecord_rdata (s : State) : (clearRecord s).rdata = s.rdata := rfl
@[simp] theorem clearRecord_fresh (s : State) : (clearRecord s).fresh = s.fresh := rfl

/-! ### `clearSuggestion`: no suggestion, no position (rule R233) -/

@[simp] theorem clearSuggestion_status (s : State) : (clearSuggestion s).status = s.status := rfl
@[simp] theorem clearSuggestion_res (s : State) : (clearSuggestion s).res = s.res := rfl
@[simp] theorem clearSuggestion_n (s : State) : (clearSuggestion s).n = s.n := rfl
@[simp] theorem clearSuggestion_fcs (s : State) : (clearSuggestion s).fcs = s.fcs := rfl
@[simp] theorem clearSuggestion_fcsr (s : State) : (clearSuggestion s).fcsr = s.fcsr := rfl
@[simp] theorem clearSuggestion_cw (s : State) : (clearSuggestion s).cw = s.cw := rfl
@[simp] theorem clearSuggestion_w (s : State) : (clearSuggestion s).w = s.w := rfl
@[simp] theorem clearSuggestion_track (s : State) : (clearSuggestion s).track = s.track := rfl
@[simp] theorem clearSuggestion_route (s : State) : (clearSuggestion s).route = s.route := rfl
@[simp] theorem clearSuggestion_rpos (s : State) : (clearSuggestion s).rpos = s.rpos := rfl
@[simp] theorem clearSuggestion_sym (s : State) : (clearSuggestion s).sym = s.sym := rfl
@[simp] theorem clearSuggestion_len (s : State) : (clearSuggestion s).len = s.len := rfl
@[simp] theorem clearSuggestion_record (s : State) : (clearSuggestion s).record = s.record := rfl
@[simp] theorem clearSuggestion_sug (s : State) : (clearSuggestion s).sug = Vector.replicate 65 0 := rfl
@[simp] theorem clearSuggestion_diff (s : State) : (clearSuggestion s).diff = 0 := rfl
@[simp] theorem clearSuggestion_repinfo (s : State) : (clearSuggestion s).repinfo = s.repinfo := rfl
@[simp] theorem clearSuggestion_host (s : State) : (clearSuggestion s).host = s.host := rfl
@[simp] theorem clearSuggestion_rdata (s : State) : (clearSuggestion s).rdata = s.rdata := rfl
@[simp] theorem clearSuggestion_fresh (s : State) : (clearSuggestion s).fresh = s.fresh := rfl

/-! ### `issueWord`: one host action more (log entry 1) -/

@[simp] theorem issueWord_status (s : State) (nbits x : Nat) : (issueWord s nbits x).status = s.status := rfl
@[simp] theorem issueWord_res (s : State) (nbits x : Nat) : (issueWord s nbits x).res = s.res := rfl
@[simp] theorem issueWord_n (s : State) (nbits x : Nat) : (issueWord s nbits x).n = s.n := rfl
@[simp] theorem issueWord_fcs (s : State) (nbits x : Nat) : (issueWord s nbits x).fcs = s.fcs := rfl
@[simp] theorem issueWord_fcsr (s : State) (nbits x : Nat) : (issueWord s nbits x).fcsr = s.fcsr := rfl
@[simp] theorem issueWord_cw (s : State) (nbits x : Nat) : (issueWord s nbits x).cw = s.cw := rfl
@[simp] theorem issueWord_w (s : State) (nbits x : Nat) : (issueWord s nbits x).w = s.w := rfl
@[simp] theorem issueWord_track (s : State) (nbits x : Nat) : (issueWord s nbits x).track = s.track := rfl
@[simp] theorem issueWord_route (s : State) (nbits x : Nat) : (issueWord s nbits x).route = s.route := rfl
@[simp] theorem issueWord_rpos (s : State) (nbits x : Nat) : (issueWord s nbits x).rpos = s.rpos := rfl
@[simp] theorem issueWord_sym (s : State) (nbits x : Nat) : (issueWord s nbits x).sym = s.sym := rfl
@[simp] theorem issueWord_len (s : State) (nbits x : Nat) : (issueWord s nbits x).len = s.len := rfl
@[simp] theorem issueWord_record (s : State) (nbits x : Nat) : (issueWord s nbits x).record = s.record := rfl
@[simp] theorem issueWord_sug (s : State) (nbits x : Nat) : (issueWord s nbits x).sug = s.sug := rfl
@[simp] theorem issueWord_diff (s : State) (nbits x : Nat) : (issueWord s nbits x).diff = s.diff := rfl
@[simp] theorem issueWord_repinfo (s : State) (nbits x : Nat) : (issueWord s nbits x).repinfo = s.repinfo := rfl
@[simp] theorem issueWord_host (s : State) (nbits x : Nat) : (issueWord s nbits x).host = .write 0 (x % 2 ^ nbits) :: s.host := rfl
@[simp] theorem issueWord_rdata (s : State) (nbits x : Nat) : (issueWord s nbits x).rdata = s.rdata := rfl
@[simp] theorem issueWord_fresh (s : State) (nbits x : Nat) : (issueWord s nbits x).fresh = s.fresh := rfl

end Sys2Proof.Machine
end

