-- ==== Sys2Proof/Laws/Ops.lean ====
section
/-! SUPPORT. What the shared operations of Machine/Ops.lean can do, said once each: how a run ends,
how a command ends, what loops keep, what one step can do. -/

namespace Sys2Proof.Machine

/-- The registers at the end of a run, however it ended. -/
def Run.final : Run → State
  | .ok s => s
  | .raised _ s => s

@[simp] theorem Run.final_ok (s : State) : (Run.ok s).final = s := rfl
@[simp] theorem Run.final_raised (e : Raise) (s : State) : (Run.raised e s).final = s := rfl
@[simp] theorem Run.andThen_ok (s : State) (f : State → Run) : (Run.ok s).andThen f = f s := rfl
@[simp] theorem Run.andThen_raised (e : Raise) (s : State) (f : State → Run) :
    (Run.raised e s).andThen f = .raised e s := rfl
@[simp] theorem Run.tryThen_ok (s : State) (f : State → Run) (g : Raise → State → Run) :
    (Run.ok s).tryThen f g = f s := rfl
@[simp] theorem Run.tryThen_fault (c : FaultCode) (s : State) (f : State → Run)
    (g : Raise → State → Run) :
    (Run.raised (.fault c) s).tryThen f g = .raised (.fault c) s := rfl
@[simp] theorem Run.tryThen_validation (v : ValReason) (s : State) (f : State → Run)
    (g : Raise → State → Run) :
    (Run.raised (.validation v) s).tryThen f g = g (.validation v) s := rfl
@[simp] theorem Run.tryThen_decoding (v : DecReason) (dt : Detail) (s : State) (f : State → Run)
    (g : Raise → State → Run) :
    (Run.raised (.decoding v dt) s).tryThen f g = g (.decoding v dt) s := rfl
@[simp] theorem Run.mapState_ok (s : State) (g : State → State) :
    (Run.ok s).mapState g = .ok (g s) := rfl
@[simp] theorem Run.mapState_raised (e : Raise) (s : State) (g : State → State) :
    (Run.raised e s).mapState g = .raised e (g s) := rfl
@[simp] theorem finish_ok (s : State) : finish (.ok s) = s := rfl
@[simp] theorem finish_raised (e : Raise) (s : State) : finish (.raised e s) = takeRaise e s := rfl
@[simp] theorem forEach_nil {α : Type} (f : α → State → Run) (s : State) : forEach [] f s = .ok s := rfl
@[simp] theorem forEach_cons {α : Type} (x : α) (xs : List α) (f : α → State → Run) (s : State) :
    forEach (x :: xs) f s = (f x s).andThen (forEach xs f) := rfl

/-- `andThen` ends well exactly when both parts do. -/
theorem Run.andThen_eq_ok {r : Run} {f : State → Run} {t : State} :
    r.andThen f = .ok t ↔ ∃ s, r = .ok s ∧ f s = .ok t := by
  cases r <;> simp

/-- `andThen` raises exactly when the first part does, or the first part ends well and the second
raises. -/
theorem Run.andThen_eq_raised {r : Run} {f : State → Run} {e : Raise} {t : State} :
    r.andThen f = .raised e t ↔ r = .raised e t ∨ ∃ s, r = .ok s ∧ f s = .raised e t := by
  cases r <;> simp

/-- Statement order is associative. -/
theorem Run.andThen_assoc (r : Run) (f g : State → Run) :
    (r.andThen f).andThen g = r.andThen fun s => (f s).andThen g := by
  cases r <;> rfl

/-- A relation to the start state that both parts keep holds at the end. -/
theorem Run.final_andThen {P : State → Prop} {r : Run} {f : State → Run}
    (h1 : P r.final) (h2 : ∀ s, P s → P (f s).final) : P (r.andThen f).final := by
  cases r with
  | ok s => exact h2 s h1
  | raised e s => exact h1

/-- The same for `try call`. -/
theorem Run.final_tryThen {P : State → Prop} {r : Run} {f : State → Run} {g : Raise → State → Run}
    (h1 : P r.final) (h2 : ∀ s, P s → P (f s).final) (h3 : ∀ e s, P s → P (g e s).final) :
    P (r.tryThen f g).final := by
  cases r with
  | ok s => exact h2 s h1
  | raised e s =>
    cases e with
    | fault c => exact h1
    | validation v => exact h3 _ s h1
    | decoding v dt => exact h3 _ s h1

/-- A property that every turn of a loop keeps holds after the loop. -/
theorem forEach_final {α : Type} {P : State → Prop} {f : α → State → Run}
    (h : ∀ x s, P s → P (f x s).final) (xs : List α) :
    ∀ s, P s → P (forEach xs f s).final := by
  induction xs with
  | nil => intro s hs; exact hs
  | cons x rest ih => intro s hs; exact Run.final_andThen (h x s hs) ih

/-- A loop whose turns all end well ends well. -/
theorem forEach_ok {α : Type} {P : State → Prop} {f : α → State → Run}
    (h : ∀ x s, P s → ∃ t, f x s = .ok t ∧ P t) (xs : List α) :
    ∀ s, P s → ∃ t, forEach xs f s = .ok t ∧ P t := by
  induction xs with
  | nil => intro s hs; exact ⟨s, rfl, hs⟩
  | cons x rest ih =>
    intro s hs
    obtain ⟨t, ht, hp⟩ := h x s hs
    simpa [ht] using ih t hp

/-- A command that is not refused: its pseudocode runs from the cleared `STATUS` (rules R100,
R101). -/
theorem command_of_fault_zero (body : State → Run) (s : State) (h : s.status.fault = 0) :
    command body s = .next (finish (body { s with status := .zero })) := by
  simp [command, h, openingClear_eq]

/-- A command of a faulted core changes nothing (rule R102). -/
theorem command_of_fault (body : State → Run) (s : State) (h : s.status.fault ≠ 0) :
    command body s = .next s := by
  unfold command
  rw [if_neg h]

/-- All that a command can do: nothing while faulted, else its pseudocode and its event. -/
theorem command_cases (body : State → Run) (s : State) :
    (s.status.fault ≠ 0 ∧ command body s = .next s) ∨
    (s.status.fault = 0 ∧
      ((∃ t, body { s with status := .zero } = .ok t ∧ command body s = .next t) ∨
        ∃ e t, body { s with status := .zero } = .raised e t ∧
          command body s = .next (takeRaise e t))) := by
  by_cases h : s.status.fault = 0
  · refine .inr ⟨h, ?_⟩
    rw [command_of_fault_zero _ _ h]
    cases hb : body { s with status := .zero } with
    | ok t => exact .inl ⟨t, rfl, rfl⟩
    | raised e t => exact .inr ⟨e, t, rfl, rfl⟩
  · exact .inl ⟨h, command_of_fault _ _ h⟩

/-- A command that ends well, from its run. -/
theorem command_ok {body : State → Run} {s t : State} (h : s.status.fault = 0)
    (hb : body { s with status := .zero } = .ok t) : command body s = .next t := by
  rw [command_of_fault_zero _ _ h, hb]; rfl

/-- A command that raises, from its run. -/
theorem command_raised {body : State → Run} {s t : State} {e : Raise} (h : s.status.fault = 0)
    (hb : body { s with status := .zero } = .raised e t) :
    command body s = .next (takeRaise e t) := by
  rw [command_of_fault_zero _ _ h, hb]; rfl

/-- What writes nothing but registers that a command's end reads: a field that the pseudocode keeps
and that no event writes is kept by the command. -/
theorem command_keeps {α : Type} (f : State → α) (hc : ∀ s, f (openingClear s) = f s)
    (he : ∀ e s, f (takeRaise e s) = f s) {body : State → Run}
    (hb : ∀ s, f (body s).final = f s) {s t : State} (h : command body s = .next t) : f t = f s := by
  unfold command at h
  split at h
  · cases h
    have hbody := hb (openingClear s)
    cases hr : body (openingClear s) with
    | ok u => rw [hr] at hbody; simpa [hc] using hbody
    | raised e u => rw [hr] at hbody; simpa [hc, he] using hbody
  · cases h; rfl

/-- All that one step can do (rules R22, R67): nothing, a read, a reset, a write to a register, a
command, or an illegal word. -/
theorem step_cases (s : State) :
    (s.host = [] ∧ step s = .next s) ∨
    (∃ idx rest, s.host = .read idx :: rest ∧
      step s = .next { s with host := rest, rdata := readElem (regElem idx) s }) ∨
    (∃ rest, s.host = .reset :: rest ∧ step s = .next (resetEvent { s with host := rest })) ∨
    (∃ idx v rest, s.host = .write idx v :: rest ∧ regElem idx ≠ .cmd ∧
      step s = .next (writeElem (regElem idx) v { s with host := rest })) ∨
    (∃ idx v rest i, s.host = .write idx v :: rest ∧ regElem idx = .cmd ∧
      decode (BitVec.ofNat 64 v) = some i ∧ step s = exec i { s with host := rest }) ∨
    (∃ idx v rest, s.host = .write idx v :: rest ∧ regElem idx = .cmd ∧
      decode (BitVec.ofNat 64 v) = none ∧ step s = illegalCommand { s with host := rest }) := by
  rcases hh : s.host with _ | ⟨a, rest⟩
  · exact .inl ⟨rfl, by simp [step, portStep, hh]⟩
  · cases a with
    | read idx =>
      refine .inr (.inl ⟨idx, rest, rfl, ?_⟩)
      simp only [step, portStep, hh, hostAct]
      cases regElem idx <;> rfl
    | reset => exact .inr (.inr (.inl ⟨rest, rfl, by simp [step, portStep, hh, hostAct]⟩))
    | write idx v =>
      by_cases hc : regElem idx = .cmd
      · cases hd : decode (BitVec.ofNat 64 v) with
        | some i =>
          exact .inr (.inr (.inr (.inr (.inl ⟨idx, v, rest, i, rfl, hc, hd, by
            simp [step, portStep, hh, hostAct, hostWrite, runWord, hc, hd]⟩))))
        | none =>
          exact .inr (.inr (.inr (.inr (.inr ⟨idx, v, rest, rfl, hc, hd, by
            simp [step, portStep, hh, hostAct, hostWrite, runWord, hc, hd]⟩))))
      · refine .inr (.inr (.inr (.inl ⟨idx, v, rest, rfl, hc, ?_⟩)))
        simp only [step, portStep, hh, hostAct, hostWrite]

end Sys2Proof.Machine
end

