-- ==== Sys2Proof/Laws/BigNum.lean ====
section
/-! SUPPORT. The limb arithmetic in terms of `val`, and what each BigNum operation can do. -/

namespace Sys2Proof.Machine

/-! ### `val` -/

@[simp] theorem limbsVal_nil : limbsVal [] = 0 := rfl

theorem limbsVal_cons (x : Limb) (l : List Limb) :
    limbsVal (x :: l) = x.toNat * 2048 ^ l.length + limbsVal l := rfl

/-- A limb is below the base. -/
theorem limb_lt (x : Limb) : x.toNat < 2048 := x.isLt

theorem limbsVal_lt (l : List Limb) : limbsVal l < 2048 ^ l.length := by
  induction l with
  | nil => simp
  | cons x rest ih =>
    have hx := limb_lt x
    rw [limbsVal_cons, List.length_cons, pow_succ]
    nlinarith

/-- Equal values of equally many limbs are equal limbs. -/
theorem limbsVal_injective : ∀ l l' : List Limb, l.length = l'.length → limbsVal l = limbsVal l' →
    l = l' := by
  intro l
  induction l with
  | nil => intro l' h _; exact (List.length_eq_zero_iff.mp h.symm).symm
  | cons x rest ih =>
    intro l' h hv
    cases l' with
    | nil => simp at h
    | cons y rest' =>
      have hl : rest.length = rest'.length := by simpa using h
      rw [limbsVal_cons, limbsVal_cons, hl] at hv
      have h1 := limbsVal_lt rest
      have h2 := limbsVal_lt rest'
      rw [hl] at h1
      have hp : 0 < 2048 ^ rest'.length := by positivity
      have hx : x.toNat = y.toNat := by
        have e1 : (x.toNat * 2048 ^ rest'.length + limbsVal rest) / 2048 ^ rest'.length = x.toNat := by
          rw [Nat.add_comm, Nat.add_mul_div_right _ _ hp, Nat.div_eq_of_lt h1, Nat.zero_add]
        have e2 : (y.toNat * 2048 ^ rest'.length + limbsVal rest') / 2048 ^ rest'.length = y.toNat := by
          rw [Nat.add_comm, Nat.add_mul_div_right _ _ hp, Nat.div_eq_of_lt h2, Nat.zero_add]
        rw [← e1, ← e2, hv]
      have hr : limbsVal rest = limbsVal rest' := by rw [hx] at hv; omega
      rw [BitVec.eq_of_toNat_eq hx, ih rest' hl hr]

theorem val_lt (n : Limbs) : val n < 2 ^ 110 := by
  have h := limbsVal_lt n.toList
  rw [Vector.length_toList] at h
  exact lt_of_lt_of_le h (by norm_num)

theorem val_injective {n n' : Limbs} (h : val n = val n') : n = n' := by
  have := limbsVal_injective n.toList n'.toList (by simp) h
  exact Vector.toList_inj.mp this

@[simp] theorem val_zero : val (Vector.replicate 10 0) = 0 := by decide

theorem limbsOf_toList {l : List Limb} (h : l.length = 10) : (limbsOf l).toList = l := by
  apply List.ext_getElem
  · simp [h]
  · intro i h1 h2
    simp [limbsOf, List.getElem?_eq_getElem h2]

theorem val_limbsOf {l : List Limb} (h : l.length = 10) : val (limbsOf l) = limbsVal l := by
  rw [val, limbsOf_toList h]

/-- Every limb is 0 exactly when the value is 0 (rule R113). -/
theorem val_eq_zero_iff (n : Limbs) : val n = 0 ↔ n = Vector.replicate 10 0 :=
  ⟨fun h => val_injective (by rw [h, val_zero]), fun h => by rw [h, val_zero]⟩

/-- The test of `BN.ISZERO` (rule R113). -/
theorem all_zero_iff (n : Limbs) : (n.toList.all (· == 0)) = true ↔ val n = 0 := by
  rw [val_eq_zero_iff, List.all_eq_true]
  constructor
  · intro h
    apply Vector.toList_inj.mp
    rw [Vector.toList_replicate]
    exact List.eq_replicate_iff.mpr ⟨by simp, fun b hb => by simpa using h b hb⟩
  · rintro rfl x hx
    rw [Vector.toList_replicate] at hx
    simp [List.eq_of_mem_replicate hx]

/-! ### The limb loops -/

@[simp] theorem addLimbs_length (l : List Limb) (c : Int) : (addLimbs l c).1.length = l.length := by
  induction l with
  | nil => rfl
  | cons x rest ih => simp [addLimbs, ih]

/-- The loop of `BN.ADD` adds exactly, with the last carry above the top limb (rule R114). -/
theorem addLimbs_spec (l : List Limb) (c : Int) :
    (limbsVal (addLimbs l c).1 : Int) + (addLimbs l c).2 * 2048 ^ l.length = limbsVal l + c := by
  induction l with
  | nil => simp [addLimbs]
  | cons x rest ih =>
    have hy : (((BitVec.ofInt 11 (((x.toNat : Int) + (addLimbs rest c).2) % limbBase)).toNat : Nat) : Int)
        = ((x.toNat : Int) + (addLimbs rest c).2) % 2048 := by
      rw [BitVec.toNat_ofInt]
      simp only [limbBase]
      omega
    simp only [addLimbs, limbsVal_cons, addLimbs_length, List.length_cons, pow_succ]
    push_cast
    rw [hy]
    simp only [limbBase]
    have hd := Int.emod_add_mul_ediv ((x.toNat : Int) + (addLimbs rest c).2) 2048
    push_cast
    linear_combination ih + hd * 2048 ^ rest.length

@[simp] theorem muladdLimbs_length (m : Nat) (l : List Limb) (c : Nat) :
    (muladdLimbs m l c).1.length = l.length := by
  induction l with
  | nil => rfl
  | cons x rest ih => simp [muladdLimbs, ih]

/-- The loop of `BN.MULADD` multiplies and adds exactly (rule R115). -/
theorem muladdLimbs_spec (m : Nat) (l : List Limb) (c : Nat) :
    limbsVal (muladdLimbs m l c).1 + (muladdLimbs m l c).2 * 2048 ^ l.length = limbsVal l * m + c := by
  induction l with
  | nil => simp [muladdLimbs]
  | cons x rest ih =>
    have hy : (BitVec.ofNat 11 ((x.toNat * m + (muladdLimbs m rest c).2) % limbBase)).toNat
        = (x.toNat * m + (muladdLimbs m rest c).2) % 2048 := by
      rw [BitVec.toNat_ofNat]
      simp only [limbBase]
      omega
    simp only [muladdLimbs, limbsVal_cons, muladdLimbs_length, List.length_cons, pow_succ]
    rw [hy]
    simp only [limbBase]
    have hd := Nat.mod_add_div (x.toNat * m + (muladdLimbs m rest c).2) 2048
    zify at ih hd ⊢
    linear_combination ih + hd * 2048 ^ rest.length

@[simp] theorem divmodLimbs_length (d : Nat) (l : List Limb) (r : Nat) :
    (divmodLimbs d l r).1.length = l.length := by
  induction l generalizing r with
  | nil => rfl
  | cons x rest ih => simp [divmodLimbs, ih]

/-- The loop of `BN.DIVMOD` divides exactly from a remainder below the divisor (rule R116). -/
theorem divmodLimbs_spec (d : Nat) (hd : 0 < d) (l : List Limb) (r : Nat) (hr : r < d) :
    limbsVal (divmodLimbs d l r).1 * d + (divmodLimbs d l r).2 = r * 2048 ^ l.length + limbsVal l ∧
      (divmodLimbs d l r).2 < d := by
  induction l generalizing r with
  | nil => simp [divmodLimbs, hr]
  | cons x rest ih =>
    have hx := limb_lt x
    obtain ⟨h1, h2⟩ := ih ((r * 2048 + x.toNat) % d) (Nat.mod_lt _ hd)
    have hq : (r * 2048 + x.toNat) / d < 2048 := by
      rw [Nat.div_lt_iff_lt_mul hd]; nlinarith
    have hy : (BitVec.ofNat 11 ((r * 2048 + x.toNat) / d)).toNat = (r * 2048 + x.toNat) / d := by
      rw [BitVec.toNat_ofNat]; exact Nat.mod_eq_of_lt hq
    simp only [divmodLimbs, limbsVal_cons, divmodLimbs_length, List.length_cons, pow_succ, limbBase]
    refine ⟨?_, h2⟩
    rw [hy]
    have hm := Nat.mod_add_div (r * 2048 + x.toNat) d
    zify at h1 hm ⊢
    linear_combination h1 + hm * 2048 ^ rest.length

/-! ### What each operation can do -/

/-- `BN.ADD k` (rules R114, R120): the exact sum, or an overflow. -/
theorem bnAdd_cases (k : Int) (s : State) :
    (0 ≤ (val s.n : Int) + k ∧ (val s.n : Int) + k < 2 ^ 110 ∧
      ∃ n : Limbs, bnAdd k s = .ok { s with n := n } ∧ (val n : Int) = val s.n + k) ∨
    (¬ (0 ≤ (val s.n : Int) + k ∧ (val s.n : Int) + k < 2 ^ 110) ∧
      bnAdd k s = .raised (.fault .bnOverflow) (loseLimbs s)) := by
  have hs := addLimbs_spec s.n.toList k
  have hl := limbsVal_lt (addLimbs s.n.toList k).1
  rw [addLimbs_length, Vector.length_toList] at hl
  rw [Vector.length_toList] at hs
  have hp : (2048 : Int) ^ 10 = 2 ^ 110 := by norm_num
  have hp' : (2048 : Nat) ^ 10 = 2 ^ 110 := by norm_num
  rw [hp] at hs
  rw [hp'] at hl
  have hl' : (limbsVal (addLimbs s.n.toList k).1 : Int) < 2 ^ 110 := by exact_mod_cast hl
  by_cases hc : (addLimbs s.n.toList k).2 = 0
  · rw [hc, zero_mul, add_zero] at hs
    have hv : (val (limbsOf (addLimbs s.n.toList k).1) : Int) = val s.n + k := by
      rw [val_limbsOf (by simp)]; exact hs
    refine .inl ⟨?_, ?_, limbsOf (addLimbs s.n.toList k).1, ?_, hv⟩
    · have h0 := Int.natCast_nonneg (val (limbsOf (addLimbs s.n.toList k).1))
      rwa [hv] at h0
    · have h1 := Int.ofNat_lt.mpr (val_lt (limbsOf (addLimbs s.n.toList k).1))
      rw [hv] at h1
      exact lt_of_lt_of_eq h1 (by norm_num)
    · simp [bnAdd, hc]
  · refine .inr ⟨?_, by simp [bnAdd, hc]⟩
    have e : (val s.n : Int) = limbsVal s.n.toList := rfl
    rw [e, ← hs]
    rintro ⟨h1, h2⟩
    apply hc
    have h0 := Int.natCast_nonneg (limbsVal (addLimbs s.n.toList k).1)
    by_contra hne
    rcases lt_or_gt_of_ne hne with hlt | hgt
    · have : (addLimbs s.n.toList k).2 ≤ -1 := by omega
      nlinarith
    · have : 1 ≤ (addLimbs s.n.toList k).2 := by omega
      nlinarith

/-- `BN.MULADD m, a` (rules R115, R120): the exact result, or an overflow. -/
theorem bnMuladd_cases (m a : Nat) (s : State) :
    (val s.n * m + a < 2 ^ 110 ∧
      ∃ n : Limbs, bnMuladd m a s = .ok { s with n := n } ∧ val n = val s.n * m + a) ∨
    (2 ^ 110 ≤ val s.n * m + a ∧
      bnMuladd m a s = .raised (.fault .bnOverflow) (loseLimbs s)) := by
  have hs := muladdLimbs_spec m s.n.toList a
  rw [Vector.length_toList] at hs
  have hp' : (2048 : Nat) ^ 10 = 2 ^ 110 := by norm_num
  rw [hp'] at hs
  by_cases hc : (muladdLimbs m s.n.toList a).2 = 0
  · rw [hc, zero_mul, add_zero] at hs
    have hv : val (limbsOf (muladdLimbs m s.n.toList a).1) = val s.n * m + a := by
      rw [val_limbsOf (by simp)]; exact hs
    refine .inl ⟨?_, limbsOf (muladdLimbs m s.n.toList a).1, ?_, hv⟩
    · rw [← hv]; exact val_lt _
    · simp [bnMuladd, hc]
  · refine .inr ⟨?_, by simp [bnMuladd, hc]⟩
    have e : val s.n = limbsVal s.n.toList := rfl
    rw [e, ← hs]
    have : 1 ≤ (muladdLimbs m s.n.toList a).2 := Nat.one_le_iff_ne_zero.mpr hc
    nlinarith

/-- `BN.DIVMOD d` (rule R116): floor division, or a zero divisor. -/
theorem bnDivmod_cases (d : Nat) (s : State) :
    (1 ≤ d ∧ ∃ n : Limbs,
      bnDivmod d s = .ok { s with n := n, res := BitVec.ofNat 32 (val s.n % d) } ∧
      val n = val s.n / d) ∨
    (d = 0 ∧ bnDivmod d s = .raised (.fault .divZero) s) := by
  by_cases hd : d = 0
  · exact .inr ⟨hd, by simp [bnDivmod, divisorLegal, hd]⟩
  · have hpos : 0 < d := Nat.pos_of_ne_zero hd
    obtain ⟨h1, h2⟩ := divmodLimbs_spec d hpos s.n.toList 0 hpos
    rw [zero_mul, zero_add] at h1
    have hq : val (limbsOf (divmodLimbs d s.n.toList 0).1) = val s.n / d ∧
        (divmodLimbs d s.n.toList 0).2 = val s.n % d := by
      rw [val_limbsOf (by simp)]
      have e : val s.n = limbsVal s.n.toList := rfl
      rw [e, ← h1]
      constructor
      · rw [Nat.add_comm, Nat.add_mul_div_right _ _ hpos, Nat.div_eq_of_lt h2, Nat.zero_add]
      · rw [Nat.add_comm, Nat.add_mul_mod_self_right, Nat.mod_eq_of_lt h2]
    refine .inl ⟨hpos, limbsOf (divmodLimbs d s.n.toList 0).1, ?_, hq.1⟩
    simp [bnDivmod, divisorLegal, hd, hq.2]

/-- `BN.LDLO v` (rule R112): two limbs, or an operand out of range. -/
theorem bnLdlo_cases (v : Nat) (s : State) :
    (v < 2 ^ 22 ∧ ∃ n : Limbs, bnLdlo v s = .ok { s with n := n } ∧ val n = v ∧
      n = ((Vector.replicate 10 0).set 8 (BitVec.ofNat 11 (v / 2048))).set 9 (BitVec.ofNat 11 v)) ∨
    (2 ^ 22 ≤ v ∧ bnLdlo v s = .raised (.fault .operandRange) s) := by
  by_cases hv : v < 2 ^ 22
  · refine .inl ⟨hv, _, by simp only [bnLdlo, ldloLegal, hv, decide_true, if_true], ?_, rfl⟩
    have hl : (((Vector.replicate 10 (0 : Limb)).set 8 (BitVec.ofNat 11 (v / 2048))).set 9
        (BitVec.ofNat 11 v)).toList =
        [0, 0, 0, 0, 0, 0, 0, 0, BitVec.ofNat 11 (v / 2048), BitVec.ofNat 11 v] := rfl
    rw [val, hl]
    simp [limbsVal, limbBase]
    omega
  · exact .inr ⟨by omega, by simp only [bnLdlo, ldloLegal, hv, decide_false]; rfl⟩

/-- `BN.ISZERO` (rule R113). -/
theorem bnIszero_eq (s : State) :
    bnIszero s = .ok { s with res := if val s.n = 0 then 1 else 0 } := by
  simp only [bnIszero]
  congr 2
  by_cases h : val s.n = 0
  · simp only [(all_zero_iff s.n).mpr h, h, if_true]
  · have : (s.n.toList.all (· == 0)) = false := by
      rw [Bool.eq_false_iff]; exact fun hc => h ((all_zero_iff s.n).mp hc)
    simp only [this, h, if_false]; rfl

end Sys2Proof.Machine
end

