-- ==== Sys2Proof/Laws/Codeword.lean ====
section
/-! SUPPORT. What the codeword operations can do (spec/46_codewords.md). -/

namespace Sys2Proof.Machine

/-- `CW.MAP` (rule R205): all ten words, or a codeword out of range with no register changed. -/
theorem cwMap_cases (s : State) :
    ((∀ x ∈ s.cw.toList, x.toNat ≤ 1364) ∧
      cwMap s = .ok { s with w := Vector.ofFn fun i => mapWord s.cw s.fcs i }) ∨
    ((∃ x ∈ s.cw.toList, 1364 < x.toNat) ∧ cwMap s = .raised (.fault .operandRange) s) := by
  unfold cwMap
  cases h : s.cw.toList.any fun c => decide (c.toNat > 1364)
  · refine .inl ⟨fun x hx => ?_, by simp⟩
    rw [List.any_eq_false] at h
    simpa using h x hx
  · refine .inr ⟨?_, by simp⟩
    rw [List.any_eq_true] at h
    simpa using h

/-- `CW.UNMAP` (rule R206): one report, with no register changed, or the codewords and the
frame-check sequence that the words hold. -/
theorem cwUnmap_cases (s : State) :
    (anyInvalid s.w = true ∧ cwUnmap s = .raised (.decoding .invalidBarcode .invalidCodeword) s) ∨
    (anyInvalid s.w = false ∧ (wordIndex s.w 0 > 1317 ∨ wordIndex s.w 9 > 1270) ∧
      cwUnmap s = .raised (.decoding .invalidBarcode .range) s) ∨
    (anyInvalid s.w = false ∧ wordIndex s.w 0 ≤ 1317 ∧ wordIndex s.w 9 ≤ 1270 ∧
      wordIndex s.w 9 % 2 = 1 ∧ cwUnmap s = .raised (.decoding .invalidBarcode .orientation) s) ∨
    (anyInvalid s.w = false ∧ wordIndex s.w 0 ≤ 1317 ∧ wordIndex s.w 9 ≤ 1270 ∧
      wordIndex s.w 9 % 2 = 0 ∧
      cwUnmap s = .ok { s with cw := unmapped s.w, fcsr := unmappedFcs s.w }) := by
  unfold cwUnmap
  cases h : anyInvalid s.w
  · by_cases hr : wordIndex s.w 0 > 1317 ∨ wordIndex s.w 9 > 1270
    · exact .inr (.inl ⟨rfl, hr, by simp [hr]⟩)
    · have hr' : wordIndex s.w 0 ≤ 1317 ∧ wordIndex s.w 9 ≤ 1270 := by omega
      by_cases ho : wordIndex s.w 9 % 2 = 1
      · exact .inr (.inr (.inl ⟨rfl, hr'.1, hr'.2, ho, by simp [hr, ho]⟩))
      · exact .inr (.inr (.inr ⟨rfl, hr'.1, hr'.2, by omega, by simp [hr, ho]⟩))
  · exact .inl ⟨rfl, by simp⟩

/-- A word set with no invalid word: every word has an index. -/
theorem anyInvalid_eq_false_iff (w : Words) :
    anyInvalid w = false ↔ ∀ i : Fin 10, ∃ c, romDec w[i] = some c := by
  unfold anyInvalid
  rw [List.any_eq_false]
  constructor
  · intro h i
    have := h w[i] (by simp)
    simpa [Option.isNone_iff_eq_none, Option.ne_none_iff_exists'] using this
  · intro h x hx
    obtain ⟨i, hi, rfl⟩ := List.mem_iff_getElem.mp hx
    obtain ⟨c, hc⟩ := h ⟨i, by simpa using hi⟩
    simp at hc
    simp [hc]

/-- One turn of the split (rule R204): the quotient stays in `N`, the remainder goes to `RES` and to
the codeword. -/
theorem takeCodeword_eq (i : Fin 10) (s : State) :
    ∃ n : Limbs, val n = val s.n / 1365 ∧
      takeCodeword i s = .ok { s with
        n := n, res := BitVec.ofNat 32 (val s.n % 1365)
        cw := s.cw.set i (BitVec.ofNat 11 (val s.n % 1365)) } := by
  rcases bnDivmod_cases 1365 s with ⟨-, n, h, hn⟩ | ⟨h, -⟩
  · refine ⟨n, hn, ?_⟩
    have hm : val s.n % 1365 < 1365 := Nat.mod_lt _ (by norm_num)
    have : (BitVec.ofNat 32 (val s.n % 1365)).setWidth 11 = BitVec.ofNat 11 (val s.n % 1365) := by
      apply BitVec.eq_of_toNat_eq
      rw [BitVec.toNat_setWidth, BitVec.toNat_ofNat, BitVec.toNat_ofNat]
      omega
    simp only [takeCodeword, h, Run.andThen_ok, this]
  · simp at h

end Sys2Proof.Machine
end

