-- ==== Sys2Proof/Laws/Fcs.lean ====
section
/-! SUPPORT. The frame-check sequence: one shift is linear, and what the two commands can do. -/

namespace Sys2Proof.Machine

/-- One shift, the polynomial as a conditional summand (rule R130). -/
theorem fcsShift_eq (f : BitVec 12) :
    fcsShift f = (f <<< 1) ^^^ (if (f <<< 1).getLsbD 11 then fcsPoly else 0) := by
  simp only [fcsShift]
  by_cases h : (f <<< 1).getLsbD 11 = true
  · rw [if_pos h, if_pos h]
  · rw [if_neg h, if_neg h]
    exact BitVec.xor_zero.symm

/-- One shift is linear over exclusive-or. -/
theorem fcsShift_xor (a b : BitVec 12) : fcsShift (a ^^^ b) = fcsShift a ^^^ fcsShift b := by
  have key : ∀ x y p : BitVec 12, (x ^^^ p) ^^^ (y ^^^ p) = x ^^^ y := by
    intro x y p
    rw [BitVec.xor_comm y p, BitVec.xor_assoc, ← BitVec.xor_assoc p p y, BitVec.xor_self,
      BitVec.zero_xor]
  have hbit : ((a ^^^ b) <<< 1).getLsbD 11 = ((a <<< 1).getLsbD 11 ^^ (b <<< 1).getLsbD 11) := by
    rw [BitVec.shiftLeft_xor_distrib, BitVec.getLsbD_xor]
  simp only [fcsShift_eq, hbit]
  rw [BitVec.shiftLeft_xor_distrib]
  have hz : ∀ x : BitVec 12, x ^^^ 0 = x := fun x => BitVec.xor_zero
  cases (a <<< 1).getLsbD 11 <;> cases (b <<< 1).getLsbD 11 <;>
    simp only [Bool.false_xor, Bool.true_xor, Bool.not_false, Bool.not_true, if_true,
      Bool.false_eq_true, if_false, hz, key]
  · exact BitVec.xor_assoc _ _ _
  · rw [BitVec.xor_assoc, BitVec.xor_comm (b <<< 1), ← BitVec.xor_assoc]

/-- So are `k` shifts. -/
theorem fcsShifts_xor (k : Nat) (a b : BitVec 12) :
    fcsShifts k (a ^^^ b) = fcsShifts k a ^^^ fcsShifts k b := by
  induction k generalizing a b with
  | zero => rfl
  | succ k ih => rw [fcsShifts, fcsShift_xor, ih]; rfl

/-- `FCS.CHK` (rule R132): `FCS` is written, then compared. -/
theorem fcsChk_cases (s : State) :
    (fcsOf s.n = s.fcsr ∧ fcsChk s = .ok { s with fcs := fcsOf s.n }) ∨
    (fcsOf s.n ≠ s.fcsr ∧
      fcsChk s = .raised (.decoding .invalidBarcode .fcsMismatch) { s with fcs := fcsOf s.n }) := by
  by_cases h : fcsOf s.n = s.fcsr
  · exact .inl ⟨h, by simp [fcsChk, h]⟩
  · exact .inr ⟨h, by simp [fcsChk, h]⟩

end Sys2Proof.Machine
end

