-- ==== Sys2Proof/Laws/Payload.lean ====
section
/-! SUPPORT. What the record operations can do (spec/45_payload.md), and the frame of the
unpacker. -/

namespace Sys2Proof.Machine

/-- `PAY.VALIDATE` (rule R182): no register changes; the first failing test is reported. -/
theorem payValidate_cases (s : State) :
    (validation s.record = none ∧ payValidate s = .ok s) ∨
    (∃ e, validation s.record = some e ∧ payValidate s = .raised (.validation e) s) := by
  unfold payValidate
  cases h : validation s.record with
  | none => exact .inl ⟨rfl, rfl⟩
  | some e => exact .inr ⟨e, rfl, rfl⟩

/-- One tracking digit (rule R186, step 9): the quotient stays in `N`, the remainder is the digit. -/
theorem takeTrack_eq (d : Nat) (hd : 1 ≤ d) (j : Fin 20) (s : State) :
    ∃ n : Limbs, val n = val s.n / d ∧
      takeTrack d j s = .ok { s with
        n := n, res := BitVec.ofNat 32 (val s.n % d)
        track := s.track.set j ((BitVec.ofNat 32 (val s.n % d)).setWidth 4) } := by
  rcases bnDivmod_cases d s with ⟨-, n, h, hn⟩ | ⟨h, -⟩
  · exact ⟨n, hn, by simp only [takeTrack, h, Run.andThen_ok]⟩
  · omega

/-- One routing digit (rule R186, step 10). -/
theorem takeRoute_eq (pos : Nat) (s : State) :
    ∃ n : Limbs, val n = val s.n / 10 ∧
      takeRoute pos s = .ok { s with
        n := n, res := BitVec.ofNat 32 (val s.n % 10)
        route := s.route.setIfInBounds pos ((BitVec.ofNat 32 (val s.n % 10)).setWidth 4) } := by
  rcases bnDivmod_cases 10 s with ⟨-, n, h, hn⟩ | ⟨h, -⟩
  · exact ⟨n, hn, by simp only [takeRoute, h, Run.andThen_ok]⟩
  · simp at h

/-- Subtracting 1 from a BigNum that is not zero never overflows (rule R186, step 10). -/
theorem bnAdd_minus_one (s : State) (h : val s.n ≠ 0) :
    ∃ n : Limbs, bnAdd (-1) s = .ok { s with n := n } ∧ val n = val s.n - 1 := by
  have hv := Int.ofNat_lt.mpr (val_lt s.n)
  rcases bnAdd_cases (-1) s with ⟨-, -, n, hn, hval⟩ | ⟨hc, -⟩
  · exact ⟨n, hn, by omega⟩
  · exact absurd ⟨by omega, by push_cast at hv; omega⟩ hc

/-- Only `N`, `RES`, `TRACK`, `ROUTE`, `RPOS` and `REC` may differ. -/
def UnpackFrame (s t : State) : Prop :=
  t = { s with n := t.n, res := t.res, track := t.track, route := t.route, rpos := t.rpos
               record := t.record }

theorem UnpackFrame.refl (s : State) : UnpackFrame s s := rfl

theorem UnpackFrame.trans {s t u : State} (h1 : UnpackFrame s t) (h2 : UnpackFrame t u) :
    UnpackFrame s u := by
  unfold UnpackFrame at *
  rw [h2, h1]

theorem takeRoutes_frame (k : Nat) :
    ∀ pos s, ∃ t, takeRoutes k pos s = .ok t ∧ UnpackFrame s t := by
  induction k with
  | zero => intro pos s; exact ⟨s, rfl, .refl s⟩
  | succ k ih =>
    intro pos s
    obtain ⟨n, -, h⟩ := takeRoute_eq (pos - 1) s
    obtain ⟨t, ht, hf⟩ := ih (pos - 1) { s with
      n := n, res := BitVec.ofNat 32 (val s.n % 10)
      route := s.route.setIfInBounds (pos - 1) ((BitVec.ofNat 32 (val s.n % 10)).setWidth 4) }
    refine ⟨t, by rw [takeRoutes, h, Run.andThen_ok, ht], ?_⟩
    exact UnpackFrame.trans (t := { s with
      n := n, res := BitVec.ofNat 32 (val s.n % 10)
      route := s.route.setIfInBounds (pos - 1) ((BitVec.ofNat 32 (val s.n % 10)).setWidth 4) }) rfl hf

/-- The end of the unpacker (rule R186, steps 11 and 12). -/
theorem unpackEnd_cases (pos : Nat) (s : State) :
    (val s.n = 0 ∧ unpackEnd pos s = .ok { s with
      res := 1, rpos := BitVec.ofNat 4 pos, record := recordOf s.track s.route pos }) ∨
    (val s.n ≠ 0 ∧
      unpackEnd pos s = .raised (.decoding .invalidBarcode .padding) { s with res := 0 }) := by
  unfold unpackEnd
  rw [bnIszero_eq]
  by_cases h : val s.n = 0
  · exact .inl ⟨h, by simp [h]⟩
  · exact .inr ⟨h, by simp [h]⟩

theorem unpackRouting_frame (l : List Nat) :
    ∀ pos s, UnpackFrame s (unpackRouting l pos s).final := by
  have hend : ∀ pos s, UnpackFrame s (unpackEnd pos s).final := by
    intro pos s
    rcases unpackEnd_cases pos s with ⟨-, h⟩ | ⟨-, h⟩ <;> rw [h] <;> rfl
  induction l with
  | nil => exact hend
  | cons sz rest ih =>
    intro pos s
    rw [unpackRouting, bnIszero_eq, Run.andThen_ok]
    by_cases h : val s.n = 0
    · simp only [h, if_true]
      exact UnpackFrame.trans (t := { s with res := 1 }) rfl (hend _ _)
    · simp only [h, if_false]
      rw [if_neg (by decide)]
      obtain ⟨n, hn, -⟩ := bnAdd_minus_one { s with res := 0 } h
      rw [hn, Run.andThen_ok]
      obtain ⟨t, ht, hf⟩ := takeRoutes_frame sz pos { s with res := 0, n := n }
      rw [ht, Run.andThen_ok]
      exact UnpackFrame.trans (t := { s with res := 0, n := n }) rfl (hf.trans (ih _ _))

/-- THE FRAME of `PAY.UNPACK` (rule R186), however it ends. -/
theorem payUnpack_frame (s : State) : UnpackFrame s (payUnpack s).final := by
  have htrack : ∀ (d : Nat) (j : Fin 20) (u : State), 1 ≤ d → UnpackFrame s u →
      ∃ t, takeTrack d j u = .ok t ∧ UnpackFrame s t := by
    intro d j u hd hu
    obtain ⟨n, -, h⟩ := takeTrack_eq d hd j u
    exact ⟨_, h, hu.trans rfl⟩
  obtain ⟨t1, h1, f1⟩ := forEach_ok (P := UnpackFrame s) (f := takeTrack 10)
    (fun j u hu => htrack 10 j u (by norm_num) hu) trackOrder
    { s with track := Vector.replicate 20 0, route := Vector.replicate 11 0 } rfl
  obtain ⟨t2, h2, f2⟩ := htrack 5 1 t1 (by norm_num) f1
  obtain ⟨t3, h3, f3⟩ := htrack 10 0 t2 (by norm_num) f2
  have hu : unpackTracking { s with track := Vector.replicate 20 0, route := Vector.replicate 11 0 } =
      .ok t3 := by
    rw [unpackTracking, h1, Run.andThen_ok, h2, Run.andThen_ok, h3]
  rw [payUnpack, hu, Run.andThen_ok]
  exact f3.trans (unpackRouting_frame _ _ _)

end Sys2Proof.Machine
end

