-- ==== Sys2Proof/Laws/PerInstr.lean ====
section
/-! SUPPORT. For every command: the fields of its command word (spec/30_encoding.md rules R81 to
R84). -/

namespace Sys2Proof.Laws.EncodeFields

open Sys2Proof

/-- The command word of a well-formed command holds its opcode, its operands and a zero `z`. -/
def Statement (i : Instr) : Prop :=
  wellFormed i = true →
    opField (encode i) = opcodeOf i ∧ zField (encode i) = 0 ∧ mField (encode i) = mOf i ∧
      aField (encode i) = aOf i

/-- The fields of an assembled word whose operands fit. -/
theorem assemble_fields {op m a : Nat} (hop : op < 2 ^ 8) (hm : m < 2 ^ 20) (ha : a < 2 ^ 32) :
    opField (assemble op m a) = op ∧ zField (assemble op m a) = 0 ∧
      mField (assemble op m a) = m ∧ aField (assemble op m a) = a := by
  have hw : (assemble op m a).toNat = op * 72057594037927936 + m * 4294967296 + a := by
    have h56 : (2 : Nat) ^ 56 = 72057594037927936 := by norm_num
    have h32 : (2 : Nat) ^ 32 = 4294967296 := by norm_num
    rw [assemble, BitVec.toNat_ofNat, h56, h32]
    omega
  refine ⟨?_, ?_, ?_, ?_⟩
  · rw [opField, BitVec.extractLsb'_toNat, hw, Nat.shiftRight_eq_div_pow]; omega
  · rw [zField, BitVec.extractLsb'_toNat, hw, Nat.shiftRight_eq_div_pow]; omega
  · rw [mField, BitVec.extractLsb'_toNat, hw, Nat.shiftRight_eq_div_pow]; omega
  · rw [aField, BitVec.extractLsb'_toNat, hw, Nat.shiftRight_eq_div_pow]; omega

theorem fields_of_bounds (i : Instr) (hop : opcodeOf i < 2 ^ 8) (hm : mOf i < 2 ^ 20)
    (ha : aOf i < 2 ^ 32) : Statement i := fun _ => assemble_fields hop hm ha

theorem fitsA_iff {v : Nat} : fitsA v = true ↔ v < 2 ^ 32 := by simp [fitsA]

theorem fitsM_iff {v : Nat} : fitsM v = true ↔ v < 2 ^ 20 := by simp [fitsM]

theorem nop : Statement .nop := fields_of_bounds _ (by decide) (by decide) (by decide)
theorem bnClr : Statement .bnClr := fields_of_bounds _ (by decide) (by decide) (by decide)
theorem bnLdlo (v : Nat) : Statement (.bnLdlo v) := fun h => fields_of_bounds _ (by simp [opcodeOf]) (by simp [mOf]) (fitsA_iff.mp h) h
theorem bnIszero : Statement .bnIszero := fields_of_bounds _ (by decide) (by decide) (by decide)
theorem bnAdd (k : Int) : Statement (.bnAdd k) := fields_of_bounds _ (by simp [opcodeOf]) (by simp [mOf]) (BitVec.isLt _)
theorem bnMuladd (m a : Nat) : Statement (.bnMuladd m a) := fun h =>
  fields_of_bounds _ (by simp [opcodeOf]) (fitsM_iff.mp (Bool.and_eq_true_iff.mp h).1)
    (fitsA_iff.mp (Bool.and_eq_true_iff.mp h).2) h
theorem bnDivmod (d : Nat) : Statement (.bnDivmod d) := fun h => fields_of_bounds _ (by simp [opcodeOf]) (fitsM_iff.mp h) (by simp [aOf]) h
theorem fcsCalc : Statement .fcsCalc := fields_of_bounds _ (by decide) (by decide) (by decide)
theorem fcsChk : Statement .fcsChk := fields_of_bounds _ (by decide) (by decide) (by decide)
theorem tblEnc (i : Nat) : Statement (.tblEnc i) := fun h => fields_of_bounds _ (by simp [opcodeOf]) (by simp [mOf]) (fitsA_iff.mp h) h
theorem tblDec (w : Nat) : Statement (.tblDec w) := fun h => fields_of_bounds _ (by simp [opcodeOf]) (by simp [mOf]) (fitsA_iff.mp h) h
theorem cwSplit : Statement .cwSplit := fields_of_bounds _ (by decide) (by decide) (by decide)
theorem cwMap : Statement .cwMap := fields_of_bounds _ (by decide) (by decide) (by decide)
theorem cwUnmap : Statement .cwUnmap := fields_of_bounds _ (by decide) (by decide) (by decide)
theorem cwJoin : Statement .cwJoin := fields_of_bounds _ (by decide) (by decide) (by decide)
theorem symEmit : Statement .symEmit := fields_of_bounds _ (by decide) (by decide) (by decide)
theorem symParse : Statement .symParse := fields_of_bounds _ (by decide) (by decide) (by decide)
theorem symFlip : Statement .symFlip := fields_of_bounds _ (by decide) (by decide) (by decide)
theorem payValidate : Statement .payValidate := fields_of_bounds _ (by decide) (by decide) (by decide)
theorem payPack : Statement .payPack := fields_of_bounds _ (by decide) (by decide) (by decide)
theorem payUnpack : Statement .payUnpack := fields_of_bounds _ (by decide) (by decide) (by decide)
theorem encodeRec : Statement .encodeRec := fields_of_bounds _ (by decide) (by decide) (by decide)
theorem decodeSym : Statement .decodeSym := fields_of_bounds _ (by decide) (by decide) (by decide)
theorem decStrict : Statement .decStrict := fields_of_bounds _ (by decide) (by decide) (by decide)
theorem repLen : Statement .repLen := fields_of_bounds _ (by decide) (by decide) (by decide)
theorem repFlip : Statement .repFlip := fields_of_bounds _ (by decide) (by decide) (by decide)
theorem decOrient : Statement .decOrient := fields_of_bounds _ (by decide) (by decide) (by decide)

end Sys2Proof.Laws.EncodeFields
end

