-- ==== Sys2Proof/Laws/Symbols.lean ====
section
/-! SUPPORT. Symbols and their halves, the bits that a string gathers, and what the symbol
operations can do. -/

namespace Sys2Proof.Machine

/-! ### One symbol (rules R160, R167) -/

@[simp] theorem dhalf_symOf (d a : Bool) : dhalf (symOf d a) = d := by
  cases d <;> cases a <;> decide

@[simp] theorem ahalf_symOf (d a : Bool) : ahalf (symOf d a) = a := by
  cases d <;> cases a <;> decide

@[simp] theorem isSym_symOf (d a : Bool) : isSym (symOf d a) = true := by
  cases d <;> cases a <;> decide

/-- A symbol is one of the four bytes. -/
theorem isSym_iff (b : Byte) : isSym b = true ↔ b = symA ∨ b = symD ∨ b = symF ∨ b = symT := by
  simp [isSym, or_assoc]

/-- A symbol is the symbol of its halves. -/
theorem symOf_halves {b : Byte} (h : isSym b = true) : symOf (dhalf b) (ahalf b) = b := by
  rcases (isSym_iff b).mp h with h | h | h | h <;> subst h <;> decide

@[simp] theorem swapAD_swapAD (b : Byte) : swapAD (swapAD b) = b := by
  revert b; decide +kernel

/-- The swap exchanges the halves of a symbol. -/
theorem dhalf_swapAD (b : Byte) : dhalf (swapAD b) = ahalf b := by
  revert b; decide +kernel

theorem ahalf_swapAD (b : Byte) : ahalf (swapAD b) = dhalf b := by
  revert b; decide +kernel

@[simp] theorem isSym_swapAD (b : Byte) : isSym (swapAD b) = isSym b := by
  revert b; decide +kernel

/-! ### Rendering and gathering (rules R165, R166) -/

@[simp] theorem render_getElem (L : Layout) (w : Words) (p : Nat) (h : p < 65) :
    (render L w)[p] = symbolAt L w ⟨p, h⟩ := by
  simp [render]

/-- A gathered bit is set exactly when some position contributes it. -/
theorem gather_getLsbD (L : Layout) (str : Vector Byte 65) (i : Fin 10) (b : Nat) :
    (gather L str)[i].getLsbD b = true ↔ ∃ p : Fin 65, (halfBits L str[p] p i).getLsbD b = true := by
  have key : ∀ (l : List (Fin 65)) (w : Char13),
      (l.foldl (fun (w : Char13) (p : Fin 65) => w ||| halfBits L str[p] p i) w).getLsbD b = true ↔
        w.getLsbD b = true ∨ ∃ p ∈ l, (halfBits L str[p] p i).getLsbD b = true := by
    intro l
    induction l with
    | nil => simp
    | cons p rest ih => intro w; rw [List.foldl_cons, ih]; simp [or_assoc]
  have hg : (gather L str)[i] = (List.finRange 65).foldl
      (fun (w : Char13) (p : Fin 65) => w ||| halfBits L str[p] p i) 0 := by
    simp [gather]
  rw [hg, key]
  simp

/-- What one position contributes to one word. -/
theorem halfBits_getLsbD (L : Layout) (x : Byte) (p : Fin 65) (i : Fin 10) (b : Fin 13) :
    (halfBits L x p i).getLsbD b = true ↔
      (dhalf x = true ∧ L.descChar[p] = i ∧ L.descBit[p] = b) ∨
      (ahalf x = true ∧ L.ascChar[p] = i ∧ L.ascBit[p] = b) := by
  have hb := b.isLt
  have h1 : ∀ (c : Fin 13), (BitVec.twoPow 13 c).getLsbD b = true ↔ c = b := by
    intro c
    simp only [BitVec.getLsbD_twoPow, Bool.and_eq_true, decide_eq_true_eq]
    constructor
    · rintro ⟨-, h⟩; exact Fin.ext h
    · rintro rfl; exact ⟨hb, rfl⟩
  unfold halfBits
  rw [BitVec.getLsbD_or, Bool.or_eq_true]
  apply or_congr
  · by_cases hd : dhalf x = true ∧ L.descChar[p] = i
    · rw [if_pos hd, h1]; exact ⟨fun h => ⟨hd.1, hd.2, h⟩, fun h => h.2.2⟩
    · rw [if_neg hd]
      constructor
      · intro h; simp at h
      · rintro ⟨h, h', -⟩; exact absurd ⟨h, h'⟩ hd
  · by_cases hd : ahalf x = true ∧ L.ascChar[p] = i
    · rw [if_pos hd, h1]; exact ⟨fun h => ⟨hd.1, hd.2, h⟩, fun h => h.2.2⟩
    · rw [if_neg hd]
      constructor
      · intro h; simp at h
      · rintro ⟨h, h', -⟩; exact absurd ⟨h, h'⟩ hd

/-! ### The commands -/

@[simp] theorem bufferOf_last (str : Vector Byte 65) : (bufferOf str)[65] = 0 := by
  simp [bufferOf]

theorem bufferOf_getElem (str : Vector Byte 65) (p : Nat) (h : p < 65) :
    (bufferOf str)[p] = str[p] := by
  simp only [bufferOf]
  exact Vector.getElem_push_lt h

theorem sym65_of_bufferOf {str : Vector Byte 65} {s : State} (h : s.sym = bufferOf str) :
    sym65 s = str := by
  apply Vector.ext
  intro i hi
  simp only [sym65, Vector.getElem_ofFn, h]
  exact bufferOf_getElem str i hi

/-- `CHECK_SYMBOLS` (rule R231): the length is reported before a symbol. -/
theorem checkSymbols_cases (s : State) :
    (s.len = 65 ∧ allSymbols 65 s = true ∧ checkSymbols s = .ok s) ∨
    (s.len ≠ 65 ∧ checkSymbols s = .raised (.decoding .length .none) s) ∨
    (s.len = 65 ∧ allSymbols 65 s = false ∧
      checkSymbols s = .raised (.decoding .invalidSymbol .none) s) := by
  unfold checkSymbols
  by_cases h : s.len = 65
  · cases ha : allSymbols 65 s
    · exact .inr (.inr ⟨h, rfl, by rw [if_pos h]; rfl⟩)
    · exact .inl ⟨h, rfl, by rw [if_pos h]; rfl⟩
  · exact .inr (.inl ⟨h, by rw [if_neg h]⟩)

/-- `SYM.PARSE` (rule R166): the gathered words, or a report with no register changed. -/
theorem symParse_cases (L : Layout) (s : State) :
    (s.len = 65 ∧ allSymbols 65 s = true ∧
      symParse L s = .ok { s with w := gather L (sym65 s) }) ∨
    (s.len ≠ 65 ∧ symParse L s = .raised (.decoding .length .none) s) ∨
    (s.len = 65 ∧ allSymbols 65 s = false ∧
      symParse L s = .raised (.decoding .invalidSymbol .none) s) := by
  rcases checkSymbols_cases s with ⟨h1, h2, h3⟩ | ⟨h1, h2⟩ | ⟨h1, h2, h3⟩
  · exact .inl ⟨h1, h2, by simp [symParse, h3]⟩
  · exact .inr (.inl ⟨h1, by simp [symParse, h2]⟩)
  · exact .inr (.inr ⟨h1, h2, by simp [symParse, h3]⟩)

/-- The test of the first `k` symbols, one by one. -/
theorem allSymbols_iff (k : Nat) (s : State) :
    allSymbols k s = true ↔ ∀ p : Fin 66, p.val < k → isSym s.sym[p] = true := by
  unfold allSymbols
  rw [List.all_eq_true]
  constructor
  · intro h p hp
    refine h _ (List.mem_take_iff_getElem.mpr ⟨p.val, ?_, by simp⟩)
    have := p.isLt
    simp only [Vector.length_toList]; omega
  · intro h x hx
    obtain ⟨i, hi, rfl⟩ := List.mem_take_iff_getElem.mp hx
    simp only [Vector.length_toList] at hi
    have := h ⟨i, by omega⟩ (by simp only; omega)
    simpa using this

end Sys2Proof.Machine
end

