-- ==== Sys2Proof/Laws/Recovery.lean ====
section
/-! SUPPORT. What the recovery operations can do (spec/49_recovery.md). -/

namespace Sys2Proof.Machine

/-- The scan so far is no worse than any candidate it has seen and than where it began. -/
theorem keepBetter_foldl_le (L : Layout) (c : List Byte) (l : List Nat) :
    ∀ best : Nat × Nat, (l.foldl (keepBetter L c) best).1 ≤ best.1 ∧
      ∀ j ∈ l, (l.foldl (keepBetter L c) best).1 ≤ bad L (candidate c j) := by
  induction l with
  | nil => intro best; simp
  | cons x rest ih =>
    intro best
    have h1 := ih (keepBetter L c best x)
    have hb : (keepBetter L c best x).1 ≤ best.1 ∧
        (keepBetter L c best x).1 ≤ bad L (candidate c x) := by
      have hk : keepBetter L c best x =
          if bad L (candidate c x) < best.1 then (bad L (candidate c x), x) else best := rfl
      rw [hk]
      split <;> constructor <;> omega
    rw [List.foldl_cons]
    refine ⟨le_trans h1.1 hb.1, fun j hj => ?_⟩
    rcases List.mem_cons.mp hj with rfl | hj
    · exact le_trans h1.1 hb.2
    · exact h1.2 j hj

/-- The best count is at most the count of every candidate (rule R255). -/
theorem bestCandidate_le (L : Layout) (c : List Byte) (j : Nat)
    (h : j < if c.length = 64 then 65 else 66) :
    (bestCandidate L c).1 ≤ bad L (candidate c j) :=
  (keepBetter_foldl_le L c _ (11, 0)).2 j (List.mem_range.mpr h)

/-- All that `REP.LEN` can do (rule R255). -/
theorem repLen_cases (L : Layout) (s : State) :
    (s.len ≠ 64 ∧ s.len ≠ 66 ∧
      repLen L s = .raised (.decoding .length .none) (clearSuggestion { s with repinfo := 0 })) ∨
    ((s.len = 64 ∨ s.len = 66) ∧ allSymbols s.len.toNat s = false ∧
      repLen L s =
        .raised (.decoding .invalidSymbol .none) (clearSuggestion { s with repinfo := 0 })) ∨
    ((s.len = 64 ∨ s.len = 66) ∧ allSymbols s.len.toNat s = true ∧
      5 ≤ (bestCandidate L (symbols s)).1 ∧
      repLen L s = .raised (.decoding .invalidBarcode .lenRepairFailed)
        { clearSuggestion { s with repinfo := 0 } with
          res := BitVec.ofNat 32 (bestCandidate L (symbols s)).1 }) ∨
    ((s.len = 64 ∨ s.len = 66) ∧ allSymbols s.len.toNat s = true ∧
      (bestCandidate L (symbols s)).1 < 5 ∧
      repLen L s = .ok
        { clearSuggestion { s with repinfo := 0 } with
          res := BitVec.ofNat 32 (bestCandidate L (symbols s)).1
          sym := bufferOf (candidate (symbols s) (bestCandidate L (symbols s)).2), len := 65
          repinfo := (repairMode (symbols s).length <<< 7) |||
            BitVec.ofNat 9 (bestCandidate L (symbols s)).2 }) := by
  have hrun : repLen L s =
      if s.len ≠ 64 ∧ s.len ≠ 66 then
        .raised (.decoding .length .none) (clearSuggestion { s with repinfo := 0 })
      else if allSymbols s.len.toNat s = false then
        .raised (.decoding .invalidSymbol .none) (clearSuggestion { s with repinfo := 0 })
      else if 5 ≤ (bestCandidate L (symbols s)).1 then
        .raised (.decoding .invalidBarcode .lenRepairFailed)
          { clearSuggestion { s with repinfo := 0 } with
            res := BitVec.ofNat 32 (bestCandidate L (symbols s)).1 }
      else .ok
        { clearSuggestion { s with repinfo := 0 } with
          res := BitVec.ofNat 32 (bestCandidate L (symbols s)).1
          sym := bufferOf (candidate (symbols s) (bestCandidate L (symbols s)).2), len := 65
          repinfo := (repairMode (symbols s).length <<< 7) |||
            BitVec.ofNat 9 (bestCandidate L (symbols s)).2 } := rfl
  rw [hrun]
  by_cases hl : s.len ≠ 64 ∧ s.len ≠ 66
  · exact .inl ⟨hl.1, hl.2, by rw [if_pos hl]⟩
  · have hl' : s.len = 64 ∨ s.len = 66 := by tauto
    rw [if_neg hl]
    by_cases hb : allSymbols s.len.toNat s = false
    · exact .inr (.inl ⟨hl', hb, by rw [if_pos hb]⟩)
    · rw [if_neg hb]
      rw [Bool.not_eq_false] at hb
      by_cases h5 : 5 ≤ (bestCandidate L (symbols s)).1
      · exact .inr (.inr (.inl ⟨hl', hb, h5, by rw [if_pos h5]⟩))
      · exact .inr (.inr (.inr ⟨hl', hb, by omega, by rw [if_neg h5]⟩))

/-- A plausible word is valid (rule R256). -/
theorem plausible_valid (w x : Char13) (h : x ∈ plausible w) : (romDec x).isSome = true := by
  unfold plausible at h
  split at h
  · rename_i hw
    rw [List.mem_singleton] at h
    exact h ▸ hw
  · exact (List.mem_filter.mp h).2

end Sys2Proof.Machine
end

