-- ==== Sys2Proof/Laws/RegSpace.lean ====
section
/-! SUPPORT. Host access: what a write leaves alone, and reading back what was written. -/

namespace Sys2Proof.Machine

@[simp] theorem writeElem_status (e : RegElem) (v : Nat) (s : State) :
    (writeElem e v s).status = s.status := by cases e <;> rfl
@[simp] theorem writeElem_res (e : RegElem) (v : Nat) (s : State) :
    (writeElem e v s).res = s.res := by cases e <;> rfl
@[simp] theorem writeElem_sug (e : RegElem) (v : Nat) (s : State) :
    (writeElem e v s).sug = s.sug := by cases e <;> rfl
@[simp] theorem writeElem_diff (e : RegElem) (v : Nat) (s : State) :
    (writeElem e v s).diff = s.diff := by cases e <;> rfl
@[simp] theorem writeElem_repinfo (e : RegElem) (v : Nat) (s : State) :
    (writeElem e v s).repinfo = s.repinfo := by cases e <;> rfl
@[simp] theorem writeElem_host (e : RegElem) (v : Nat) (s : State) :
    (writeElem e v s).host = s.host := by cases e <;> rfl
@[simp] theorem writeElem_rdata (e : RegElem) (v : Nat) (s : State) :
    (writeElem e v s).rdata = s.rdata := by cases e <;> rfl
@[simp] theorem writeElem_fresh (e : RegElem) (v : Nat) (s : State) :
    (writeElem e v s).fresh = s.fresh := by cases e <;> rfl

@[simp] theorem field_withField (r : Record) (f : FieldName) (x : RecField) :
    (r.withField f x).field f = x := by cases f <;> rfl

theorem field_withField_ne (r : Record) {f g : FieldName} (h : f ≠ g) (x : RecField) :
    (r.withField f x).field g = r.field g := by
  cases f <;> cases g <;> first | exact absurd rfl h | rfl

/-- Only index 0 is `CMD` (rule R39). -/
theorem regElem_zero : regElem 0 = .cmd := by decide

end Sys2Proof.Machine
end

