-- ==== Sys2Proof/Tests/Slice0.lean ====
section
/-! SUPPORT. The model's own tests: the well-formedness checks, every command's word decoded, two
small tests for a command, each with its source in spec/95_test_vectors.md (written "TV"), and the
witnesses that the statements' hypotheses can be met. -/

namespace Sys2Proof.Tests

open Sys2Proof Sys2Proof.Machine

set_option Elab.async false

/-! ### Helpers -/

/-- The next state, if there is one. -/
def after (o : Host.Outcome State Fault Refusal) : Option State :=
  match o with
  | .next t => some t
  | .fault _ => none
  | .refused _ => none

/-- One field of the next state of a command. -/
def ends {α : Type} (f : State → α) (i : Instr) (s : State) : Option α := (after (exec i s)).map f

/-- `STATUS` of a state, as the host reads it. -/
def st (s : State) : Nat := s.status.word.toNat

def limbs (l : List Nat) : Limbs := Vector.ofFn fun i => BitVec.ofNat 11 (l.getD i 0)
def words (l : List Nat) : Words := Vector.ofFn fun i => BitVec.ofNat 13 (l.getD i 0)
def codewords (l : List Nat) : Codewords := Vector.ofFn fun i => BitVec.ofNat 11 (l.getD i 0)

/-- A field of decimal digits. -/
def field (l : List Nat) : RecField :=
  { len := BitVec.ofNat 4 l.length
    ch := Vector.ofFn fun k => if k.val < l.length then BitVec.ofNat 8 (0x30 + l.getD k 0) else 0 }

/-- Record S2 of TV. -/
def recS2 : Record :=
  { Record.absent with
    bid := field [0, 1], stc := field [2, 3, 4], mid := field [5, 6, 7, 0, 9, 4]
    ser := field [9, 8, 7, 6, 5, 4, 3, 2, 1] }

/-- Record S3 of TV, with a 9-digit mailer. -/
def recS3 : Record :=
  { Record.absent with
    bid := field [0, 1], stc := field [2, 3, 4], mid := field [9, 0, 1, 2, 3, 4, 5, 6, 7]
    ser := field [0, 1, 2, 3, 4, 5] }

/-- After reset, with these limbs. -/
def withN (l : List Nat) : State := { State.reset with n := limbs l }

/-- After reset, with these words. -/
def withW (l : List Nat) : State := { State.reset with w := words l }

/-- After reset, with the 65 symbols that these words render to. -/
def withSyms (l : List Nat) : State :=
  { State.reset with sym := bufferOf (render layout (words l)), len := 65 }

/-- Words of S2 (TV P2) and of S3 (TV P3). -/
def wordsS2 : List Nat :=
  [0x1FE0, 0x001F, 0x001F, 0x001F, 0x0ADB, 0x01A3, 0x1BC3, 0x1838, 0x012B, 0x0076]
def wordsS3 : List Nat :=
  [0x1154, 0x1FE0, 0x1FE0, 0x1FE0, 0x1524, 0x0325, 0x1400, 0x006B, 0x02E2, 0x13AE]

/-! ### Well-formedness: each check refuses -/

theorem test_wf_ldlo : wellFormed (.bnLdlo (2 ^ 32)) = false ∧ wellFormed (.bnLdlo (2 ^ 32 - 1)) = true := by
  decide
theorem test_wf_add_high : wellFormed (.bnAdd (2 ^ 31)) = false ∧ wellFormed (.bnAdd (2 ^ 31 - 1)) = true := by
  decide
theorem test_wf_add_low : wellFormed (.bnAdd (-2 ^ 31 - 1)) = false ∧ wellFormed (.bnAdd (-2 ^ 31)) = true := by
  decide
theorem test_wf_muladd_m : wellFormed (.bnMuladd (2 ^ 20) 0) = false ∧ wellFormed (.bnMuladd (2 ^ 20 - 1) 0) = true := by
  decide
theorem test_wf_muladd_a : wellFormed (.bnMuladd 0 (2 ^ 32)) = false ∧ wellFormed (.bnMuladd 0 (2 ^ 32 - 1)) = true := by
  decide
theorem test_wf_divmod : wellFormed (.bnDivmod (2 ^ 20)) = false ∧ wellFormed (.bnDivmod 0) = true := by decide
theorem test_wf_tbl_enc : wellFormed (.tblEnc (2 ^ 32)) = false ∧ wellFormed (.tblEnc 1365) = true := by decide
theorem test_wf_tbl_dec : wellFormed (.tblDec (2 ^ 32)) = false ∧ wellFormed (.tblDec 8192) = true := by decide

/-! ### Decoding: words from rule R84's table, and from TV section 3 where they have operands -/

theorem test_decode_nop : decode 0x0000000000000000 = some .nop := by decide
theorem test_decode_bn_clr : decode 0x0100000000000000 = some .bnClr := by decide
theorem test_decode_bn_ldlo : decode 0x020000000000C486 = some (.bnLdlo 50310) := by decide
theorem test_decode_bn_iszero : decode 0x0300000000000000 = some .bnIszero := by decide
theorem test_decode_bn_add : decode 0x040000003B9C50A1 = some (.bnAdd 1000100001) := by decide
theorem test_decode_bn_add_minus : decode 0x04000000FFFFFFFF = some (.bnAdd (-1)) := by decide
theorem test_decode_bn_muladd : decode 0x050F42400001944E = some (.bnMuladd 1000000 103502) := by decide
theorem test_decode_bn_divmod : decode 0x0600027C00000000 = some (.bnDivmod 636) := by decide
theorem test_decode_fcs_calc : decode 0x1000000000000000 = some .fcsCalc := by decide
theorem test_decode_fcs_chk : decode 0x1100000000000000 = some .fcsChk := by decide
theorem test_decode_tbl_enc : decode 0x1800000000000293 = some (.tblEnc 659) := by decide
theorem test_decode_tbl_dec : decode 0x1900000000001154 = some (.tblDec 0x1154) := by decide
theorem test_decode_cw_split : decode 0x2000000000000000 = some .cwSplit := by decide
theorem test_decode_cw_map : decode 0x2100000000000000 = some .cwMap := by decide
theorem test_decode_cw_unmap : decode 0x2200000000000000 = some .cwUnmap := by decide
theorem test_decode_cw_join : decode 0x2300000000000000 = some .cwJoin := by decide
theorem test_decode_sym_emit : decode 0x2800000000000000 = some .symEmit := by decide
theorem test_decode_sym_parse : decode 0x2900000000000000 = some .symParse := by decide
theorem test_decode_sym_flip : decode 0x2A00000000000000 = some .symFlip := by decide
theorem test_decode_pay_validate : decode 0x3000000000000000 = some .payValidate := by decide
theorem test_decode_pay_pack : decode 0x3100000000000000 = some .payPack := by decide
theorem test_decode_pay_unpack : decode 0x3200000000000000 = some .payUnpack := by decide
theorem test_decode_encode : decode 0x4000000000000000 = some .encodeRec := by decide
theorem test_decode_decode : decode 0x4800000000000000 = some .decodeSym := by decide
theorem test_decode_dec_strict : decode 0x4900000000000000 = some .decStrict := by decide
theorem test_decode_rep_len : decode 0x4A00000000000000 = some .repLen := by decide
theorem test_decode_rep_flip : decode 0x4B00000000000000 = some .repFlip := by decide
theorem test_decode_dec_orient : decode 0x4C00000000000000 = some .decOrient := by decide

/-- TV 2.10: an unassigned opcode, and each must-be-zero field not 0. -/
theorem test_decode_illegal :
    decode 0x0700000000000000 = none ∧ decode 0x0010000000000000 = none ∧
    decode 0x0100000000000001 = none ∧ decode 0x0200000100000005 = none ∧
    decode 0x0600000A00000001 = none ∧ decode 0xFFFFFFFFFFFFFFFF = none := by decide

/-- The table's numbering: bits above `nbits` are 0. -/
theorem test_decode_table_word :
    decodeTableWord 64 0x050003E8000000EA = some (.bnMuladd 1000 234) ∧
    decodeTableWord 8 0x1FF = none := by decide

theorem test_encode_bn_add : encode (.bnAdd (-1)) = 0x04000000FFFFFFFF := by decide

/-! ### One step of each command -/

/-- TV 2.10: `NOP` clears the result fields. -/
theorem test_nop :
    ends st .nop { State.reset with status := { Status.zero with kind := 2, reason := 2, detail := 4 } } =
      some 0 := by decide +kernel

/-- TV 2.1. -/
theorem test_bn_clr : ends (·.n) .bnClr (withN [1, 2, 3]) = some (limbs []) := by decide +kernel
theorem test_bn_ldlo : ends (·.n) (.bnLdlo 50310) (withN [7]) = some (limbs [0, 0, 0, 0, 0, 0, 0, 0, 24, 1158]) := by
  decide +kernel
theorem test_bn_ldlo_range :
    ends (fun s => (st s, s.n)) (.bnLdlo 4194304) (withN [7]) = some (0x20000, limbs [7]) := by
  decide +kernel
theorem test_bn_iszero : ends (·.res) .bnIszero (withN []) = some 1 := by decide +kernel
theorem test_bn_iszero_not : ends (·.res) .bnIszero (withN [1]) = some 0 := by decide +kernel
theorem test_bn_add_borrow :
    ends (·.n) (.bnAdd (-1)) (withN [1]) =
      some (limbs [0, 2047, 2047, 2047, 2047, 2047, 2047, 2047, 2047, 2047]) := by decide +kernel
theorem test_bn_add_underflow : ends st (.bnAdd (-1)) (withN []) = some 0x30000 := by decide +kernel
theorem test_bn_muladd :
    ends (·.n) (.bnMuladd 1048575 4294967295) (withN [0, 4]) =
      some (limbs [2047, 2044, 0, 0, 0, 0, 0, 1023, 2047, 2047]) := by decide +kernel
theorem test_bn_muladd_overflow : ends st (.bnMuladd 2 0) (withN [1024]) = some 0x30000 := by
  decide +kernel
theorem test_bn_divmod :
    ends (fun s => (s.n, s.res)) (.bnDivmod 636) (withN [4, 97, 1269, 183, 832, 672, 1777, 229, 2001, 131]) =
      some (limbs [0, 13, 69, 1265, 1633, 1868, 1496, 1909, 1835, 814], 571) := by decide +kernel
theorem test_bn_divmod_zero : ends st (.bnDivmod 0) (withN [7]) = some 0x40000 := by decide +kernel

/-- TV 2.2. -/
theorem test_fcs_calc :
    ends (·.fcs) .fcsCalc (withN [0, 0, 0, 0, 34, 545, 29, 1392, 1024, 1201]) = some 0x051 := by
  decide +kernel
theorem test_fcs_calc_first_limb : ends (·.fcs) .fcsCalc (withN [1024]) = some 0x3FC := by
  decide +kernel
theorem test_fcs_chk :
    ends (fun s => (st s, s.fcs)) .fcsChk
      { withN [0, 0, 0, 0, 34, 545, 29, 1392, 1024, 1201] with fcsr := 0x451 } =
      some (0x00442, 0x051) := by decide +kernel

/-- TV 2.3. -/
theorem test_tbl_enc : ends (·.res) (.tblEnc 659) .reset = some 0x1154 := by decide +kernel
theorem test_tbl_enc_range : ends st (.tblEnc 1365) .reset = some 0x20000 := by decide +kernel
theorem test_tbl_dec : ends (·.res) (.tblDec 0x0DCB) .reset = some 0x000102A1 := by decide +kernel
theorem test_tbl_dec_invalid : ends (·.res) (.tblDec 0x000F) .reset = some 0x800007FF := by
  decide +kernel

/-- TV 2.6, P2 and P3. -/
theorem test_cw_split :
    ends (fun s => (s.cw, s.n, s.res)) .cwSplit
      { withN [0, 0, 0, 0, 34, 545, 29, 1392, 1024, 1201] with fcs := 0x051 } =
      some (codewords [0, 0, 0, 0, 559, 202, 508, 451, 124, 34], limbs [], 0) := by decide +kernel
theorem test_cw_map :
    ends (·.w) .cwMap
      { State.reset with cw := codewords [0, 0, 0, 0, 559, 202, 508, 451, 124, 34], fcs := 0x051 } =
      some (words wordsS2) := by decide +kernel
theorem test_cw_map_range :
    ends st .cwMap { State.reset with cw := codewords [0, 0, 0, 0, 1365] } = some 0x20000 := by
  decide +kernel
theorem test_cw_unmap :
    ends (fun s => (s.cw, s.fcsr)) .cwUnmap (withW wordsS3) =
      some (codewords [0, 0, 0, 0, 559, 408, 1290, 24, 382, 533], 0x60E) := by decide +kernel
theorem test_cw_unmap_range : ends st .cwUnmap (withW (0x1040 :: wordsS2.tail)) = some 0x00242 := by
  decide +kernel
theorem test_cw_join :
    ends (fun s => val s.n) .cwJoin
      { State.reset with cw := codewords [658, 1364, 1364, 1364, 1364, 1364, 1364, 1364, 1364, 635] } =
      some 5051306733752184025300720312499 := by decide +kernel

/-- TV 2.4: word 4 bit 3 is the ascender half, word 7 bit 2 the descender half of position 0. -/
theorem test_sym_emit :
    ends (fun s => (s.sym[0], s.sym[1], s.sym[65], s.len)) .symEmit (withW [0, 0, 0, 0, 8]) =
      some (0x41, 0x54, 0, 65) := by decide +kernel
theorem test_sym_emit_descender :
    ends (fun s => s.sym[0]) .symEmit (withW [0, 0, 0, 0, 0, 0, 0, 4]) = some 0x44 := by decide +kernel
theorem test_sym_parse : ends (·.w) .symParse (withSyms wordsS2) = some (words wordsS2) := by
  decide +kernel
theorem test_sym_parse_length : ends st .symParse { withSyms wordsS2 with len := 64 } = some 0x12 := by
  decide +kernel
theorem test_sym_flip :
    ends (fun s => (s.sym[0], s.sym[1], s.sym[4])) .symFlip
      { withSyms wordsS2 with len := 4 } = some (0x44, 0x54, 0x41) := by decide +kernel

/-- TV 2.5 and P3. -/
theorem test_pay_validate :
    ends st .payValidate { State.reset with record := { recS2 with bid := field [0, 5] } } =
      some 0x00061 := by decide +kernel
theorem test_pay_validate_good : ends st .payValidate { State.reset with record := recS3 } = some 0 := by
  decide +kernel
theorem test_pay_pack :
    ends (·.n) .payPack { State.reset with record := recS2 } =
      some (limbs [0, 0, 0, 0, 34, 545, 29, 1392, 1024, 1201]) := by decide +kernel
theorem test_pay_unpack :
    ends (fun s => (s.record, s.rpos)) .payUnpack (withN [0, 0, 0, 0, 34, 564, 16, 1324, 475, 2041]) =
      some (recS3, 11) := by decide +kernel

/-- TV 2.8: `ENCODE` of S2 renders the words of P2; `DEC.STRICT` of S3's string gives S3. -/
theorem test_encode :
    ends (fun s => (s.sym, s.len)) .encodeRec { State.reset with record := recS2 } =
      some (bufferOf (render layout (words wordsS2)), 65) := by decide +kernel
theorem test_encode_invalid : ends st .encodeRec .reset = some 0x00051 := by decide +kernel
theorem test_dec_strict :
    ends (fun s => (st s, s.record)) .decStrict (withSyms wordsS3) = some (0, recS3) := by decide +kernel
theorem test_dec_strict_word :
    ends st .decStrict (withSyms [0x1154, 0x1FE0, 0x1FE0, 0x1FE0, 0x1524, 0x03A5, 0x1400, 0x006B, 0x02E2, 0x13AE]) =
      some 0x00142 := by decide +kernel

/-- TV 2.9: the swapped string of S2 is upside down; 65 `T` have no plausible words; 65 symbols are
no input of `REP.LEN`. -/
theorem test_decode_no_plausible : ends st .decodeSym (withSyms []) = some 0x00742 := by decide +kernel
theorem test_dec_orient :
    ends (fun s => (st s, s.res)) .decOrient
      { State.reset with sym := bufferOf (swapped (render layout (words wordsS2))), len := 65 } =
      some (0x00032, 1) := by decide +kernel
theorem test_dec_orient_upright :
    ends (fun s => (st s, s.res)) .decOrient (withSyms wordsS2) = some (0, 0) := by decide +kernel
theorem test_rep_len_of_65 : ends st .repLen (withSyms wordsS2) = some 0x00012 := by decide +kernel

/-! ### Witnesses: concrete states and operands that meet the hypotheses of the statements

`test_not_faulted` is the witness of every statement whose only hypothesis is that the core is not
faulted. -/

theorem test_not_faulted : State.reset.status.fault = 0 := by decide

/-- A faulted core (TV P5). -/
def faulted : State := { State.reset with status := faultStatus 4 }

/-- After reset, with these host actions to come. -/
def withHost (l : List HostAction) : State := { State.reset with host := l }

/-- A length and one byte in every entry of `SYM`. -/
def filled (k : BitVec 7) (b : Byte) : State := { State.reset with sym := Vector.replicate 66 b, len := k }

/-- 65 symbols `A`. -/
def allA : State := filled 65 0x41

/-- Words of TV's padding string (2.8). -/
def wordsPadding : List Nat :=
  [0x0551, 0x0880, 0x044D, 0x07D3, 0x12C4, 0x150A, 0x1FF6, 0x1EB2, 0x1DD1, 0x0F56]

/-- One word damaged, three plausible tuples of which one decodes. -/
def wordsUnique : List Nat :=
  [0x1154, 0x1FE0, 0x1FE0, 0x1FE0, 0x001F, 0x001F, 0x001F, 0x1FE0, 0x1FF8, 0x001F]

/-- One word damaged, three plausible tuples of which two decode. -/
def wordsAmbiguous : List Nat :=
  [0x001F, 0x001F, 0x1FE0, 0x1FE0, 0x1FE0, 0x001F, 0x001F, 0x1FE0, 0x0086, 0x1A5E]

/-- S2's symbols with `A` and `D` swapped. -/
def swappedS2 : State :=
  { State.reset with sym := bufferOf (swapped (render layout (words wordsS2))), len := 65 }

/-- The 64 symbols of TV 2.9: S2's string without its symbol 10. -/
def shortS2 : State :=
  { State.reset with
    sym := ((render layout (words wordsS2)).eraseIdx 10).push 0 |>.push 0, len := 64 }

/-! Encoding and host port. -/

theorem test_witness_decode_encode :
    wellFormed (.bnMuladd (2 ^ 20 - 1) (2 ^ 32 - 1)) = true ∧ wellFormed (.bnAdd (-2 ^ 31)) = true := by
  decide
theorem test_witness_step_command :
    (withHost [.write 0 0x0300000000000000]).host = .write 0 0x0300000000000000 :: [] ∧
      decode (BitVec.ofNat 64 0x0300000000000000) = some .bnIszero ∧
      decodeTableWord 64 0x0300000000000000 = some .bnIszero := by decide
theorem test_witness_idle : State.reset.host = [] := rfl
theorem test_witness_faulted :
    faulted.status.fault ≠ 0 ∧ { faulted with host := [.write 0 0] }.host = .write 0 0 :: [] := by decide
theorem test_witness_faulted_write :
    ∃ t, step { faulted with host := [.write 0x10 5] } = .next t ∧
      HostAction.write 0x10 5 ≠ .reset := ⟨_, rfl, by decide⟩
theorem test_witness_faulted_reset : ∃ t, step { faulted with host := [.reset] } = .next t := ⟨_, rfl⟩
theorem test_witness_illegal_word :
    ∀ row ∈ opcodeTable, ¬ selects (BitVec.ofNat 64 0x0700000000000000) row := by
  unfold selects; decide
theorem test_witness_selects : selects 0x05FFFFFFFFFFFFFF (0x05, .MA) ↔ False := by
  unfold selects; decide
theorem test_witness_selects_row : selects 0x050FFFFFFFFFFFFF (0x05, .MA) := by
  unfold selects; decide
theorem test_witness_reset : (withHost [.reset]).host = .reset :: [] := rfl
theorem test_witness_read : (withHost [.read 0x3FF]).host = .read 0x3FF :: [] := rfl

/-- Reads by rule R39's map, at the ends of its rows, through one step. -/
theorem test_read_map :
    (after (step { swappedS2 with host := [.read 0x140] })).map (·.rdata.toNat) =
        some (swappedS2.sym[64].toNat) ∧
      (after (step { State.reset with record := recS3, host := [.read 0x221] })).map (·.rdata.toNat) =
        some 0x39 := by decide +kernel
theorem test_witness_write :
    hostWidth 0x06A = some 4 ∧ hostWidth 0x26F = some 8 ∧ hostWidth 0x06B = none ∧
      hostWidth 0x1C0 = none ∧ hostWidth 0x270 = none := by decide
theorem test_witness_write_other :
    (0x010 : BitVec 10) ≠ 0 ∧ (0x010 : BitVec 10) ≠ 0x019 ∧
      ∃ t, step (withHost [.write 0x010 5]) = .next t := ⟨by decide, by decide, _, rfl⟩

/-! BigNum: the boundary values of each clause. -/

theorem test_witness_ldlo : 2 ^ 22 - 1 < 2 ^ 22 ∧ 2 ^ 22 ≤ 2 ^ 22 ∧ 2 ^ 32 - 1 < 2 ^ 32 := by decide
theorem test_witness_add_top :
    0 ≤ (val (Vector.replicate 10 2047) : Int) + 0 ∧
      (val (Vector.replicate 10 2047) : Int) + 0 < 2 ^ 110 := by decide +kernel
theorem test_witness_add_zero : 0 ≤ (val (limbs [0, 0, 0, 0, 0, 0, 0, 512]) : Int) + -2 ^ 31 := by
  decide +kernel
theorem test_witness_add_over : ¬ ((val (Vector.replicate 10 2047) : Int) + 1 < 2 ^ 110) := by
  decide +kernel
theorem test_witness_add_under : ¬ (0 ≤ (val (limbs []) : Int) + -1) := by decide +kernel
theorem test_witness_muladd_top :
    val (Vector.replicate 10 2047) * 1 + 0 < 2 ^ 110 ∧ 2 ^ 110 ≤ val (Vector.replicate 10 2047) * 1 + 1 := by
  decide +kernel
theorem test_witness_divmod : 1 ≤ 1 ∧ 2 ^ 20 - 1 < 2 ^ 20 := by decide
theorem test_witness_law_a :
    ∃ t, exec (.bnMuladd 10 25) (withN [0, 0, 0, 0, 0, 0, 0, 0, 0, 7]) = .next t ∧ t.status.fault = 0 :=
  ⟨_, rfl, by decide +kernel⟩
theorem test_witness_law_b :
    ∃ t, exec (.bnAdd 2147483647) (withN [0, 0, 0, 0, 0, 0, 0, 0, 0, 5]) = .next t ∧ t.status.fault = 0 :=
  ⟨_, rfl, by decide +kernel⟩

/-! Tables. -/

theorem test_witness_table_indices : 1364 ≤ 1364 ∧ 1365 ≤ 1365 ∧ 8191 ≤ 8191 ∧ 8192 ≤ 8192 := by decide
theorem test_witness_table_words :
    romDec 0x00A0 = some 1364 ∧ romDec 0x001F = some 0 ∧ romDec 0 = none := by decide +kernel

/-! Symbols and records. -/

theorem test_witness_all_syms : allSyms (sym65 (withSyms wordsS2)) ∧ (withSyms wordsS2).len = 65 := by
  unfold allSyms; decide +kernel
theorem test_witness_not_all_syms : ¬ allSyms (sym65 (filled 65 0x61)) := by
  unfold allSyms; decide +kernel
theorem test_witness_flip :
    (0 : Nat) < (withSyms wordsS2).len.toNat ∧ (withSyms wordsS2).sym[0] = 0x41 ∧
      (withSyms wordsS2).sym[7] = 0x44 ∧ (withSyms wordsS2).sym[1] = 0x54 := by decide +kernel
theorem test_witness_bijective : layout.Bijective := by decide +kernel
theorem test_witness_valid_record : validRecord recS2 ∧ validRecord recS3 := by
  unfold validRecord; decide +kernel
theorem test_witness_invalid_record : ¬ validRecord Record.absent := by
  unfold validRecord; decide +kernel
theorem test_witness_mailer : mailerCondition recS2 ∧ mailerCondition recS3 := by
  unfold mailerCondition; decide +kernel
/-- The limbs of a value. -/
def limbsOfNat (v : Nat) : Limbs := Vector.ofFn fun i => BitVec.ofNat 11 (v / 2048 ^ (9 - i.val))
theorem test_witness_unpack :
    val (limbsOfNat (101000100000 * (5 * 10 ^ 19))) / (5 * 10 ^ 19) = lastRouting ∧
      lastRouting < val (limbsOfNat (101000100001 * (5 * 10 ^ 19))) / (5 * 10 ^ 19) := by decide +kernel
theorem test_witness_split :
    val (limbsOfNat (splitBound - 1)) < splitBound ∧ splitBound ≤ val (limbsOfNat splitBound) := by
  decide +kernel
theorem test_witness_map :
    (∀ i : Fin 10, (codewords [1364])[i].toNat ≤ 1364) ∧ ∃ i : Fin 10, 1364 < (codewords [1365])[i].toNat := by
  decide +kernel
theorem test_witness_unmap_invalid : ∃ i : Fin 10, romDec (words [])[i] = none := by decide +kernel

/-- The indices of ten words, 0 where a word is invalid. -/
def indices (w : Words) (i : Fin 10) : Nat := (romDec w[i]).getD 0

/-- Each clause of `CW.UNMAP` at the ends of its range: indices 1318 and 1317 of word 0 (0x1040,
0x0041), 1271, 1270 and 35 of word 9 (0x1883, 0x1823, 0x0DC0), TV 2.6. -/
theorem test_witness_unmap_indices :
    indices (words [0x1040]) 0 = 1318 ∧ indices (words [0x0041]) 0 = 1317 ∧
      indices (words [0, 0, 0, 0, 0, 0, 0, 0, 0, 0x1883]) 9 = 1271 ∧
      indices (words [0, 0, 0, 0, 0, 0, 0, 0, 0, 0x1823]) 9 = 1270 ∧
      indices (words [0, 0, 0, 0, 0, 0, 0, 0, 0, 0x0DC0]) 9 = 35 := by decide +kernel
theorem test_witness_unmap_all_valid :
    ∀ i : Fin 10, romDec (words wordsS2)[i] = some (indices (words wordsS2) i) := by decide +kernel

/-! Encoder and strict decoder. -/

theorem test_witness_encode_succeeds : ends succeeded .encodeRec { State.reset with record := recS2 } = some true := by
  decide +kernel
theorem test_witness_barcode_s2 : barcodeOf layout recS2 = render layout (words wordsS2) := by decide +kernel
theorem test_witness_barcode_s3 : barcodeOf layout recS3 = render layout (words wordsS3) := by decide +kernel
theorem test_witness_barcode_held :
    sym65 (withSyms wordsS2) = barcodeOf layout recS2 ∧ sym65 (withSyms wordsS3) = barcodeOf layout recS3 := by
  rw [test_witness_barcode_s2, test_witness_barcode_s3]
  exact ⟨sym65_of_bufferOf rfl, sym65_of_bufferOf rfl⟩
theorem test_witness_is_barcode : isBarcode (sym65 (withSyms wordsS2)) :=
  ⟨recS2, test_witness_valid_record.1, test_witness_barcode_held.1⟩

/-! Recovery. -/

theorem test_witness_rep_len_input :
    (shortS2.len = 64 ∨ shortS2.len = 66) ∧
      inputSymbols shortS2 := by unfold inputSymbols; decide +kernel
theorem test_witness_rep_len_input_66 :
    ((filled 66 0x54).len = 64 ∨ (filled 66 0x54).len = 66) ∧
      inputSymbols (filled 66 0x54) := by unfold inputSymbols; decide +kernel

/-- TV 2.9: one invalid word when `T` is inserted at 8; ten in a string of `T`. -/
theorem test_witness_rep_len_counts :
    candidateBad shortS2 8 = 1 ∧ candidateBad (filled 66 0x54) 0 = 10 := by decide +kernel

/-- TV 2.9: `REP.LEN` succeeds on the 64 symbols. -/
theorem test_rep_len_succeeds : ∃ t, exec .repLen shortS2 = .next t ∧ succeeded t = true := by
  have hbad : bad layout (candidate (symbols shortS2) 8) = 1 := by decide +kernel
  have hlen : (symbols shortS2).length = 64 := by decide +kernel
  have hall : allSymbols 64 shortS2 = true := by decide +kernel
  have hscan : lenRepairScans shortS2 = true := by decide +kernel
  have hle := bestCandidate_le layout (symbols shortS2) 8 (by rw [hlen]; decide)
  have hclear : openingClear shortS2 = shortS2 := rfl
  have hrun : exec .repLen shortS2 =
      .next (finish ((repLen layout shortS2).mapState loseScratchButRes)) := by
    show execRepLen shortS2 = _
    unfold execRepLen command
    rw [if_pos (show shortS2.status.fault = 0 from rfl), hclear]
    dsimp only
    rw [if_pos hscan]
  rcases repLen_cases layout shortS2 with h | h | h | h
  · exact absurd rfl h.1
  · exact absurd (hall.symm.trans h.2.1) (by decide)
  · exact absurd h.2.2.1 (by omega)
  · exact ⟨_, hrun, by rw [h.2.2.2]; rfl⟩

/-- What `REP.FLIP` searches. -/
def flipLists (s : State) : List (List Char13) := plausibles (gather layout (sym65 s))
def flipGood (s : State) : List Words := (tuples (flipLists s)).filter fun w => (recordOfWords w).isSome

theorem test_witness_flip_none : [] ∈ flipLists (filled 65 0x54) := by decide +kernel
theorem test_witness_flip_many : [] ∉ flipLists allA ∧ productOf (flipLists allA) > 1000 := by decide +kernel
theorem test_witness_flip_no_success :
    [] ∉ flipLists (withSyms wordsPadding) ∧ productOf (flipLists (withSyms wordsPadding)) ≤ 1000 ∧
      (flipGood (withSyms wordsPadding)).length = 0 := by decide +kernel
theorem test_witness_flip_ambiguous :
    [] ∉ flipLists (withSyms wordsAmbiguous) ∧ productOf (flipLists (withSyms wordsAmbiguous)) ≤ 1000 ∧
      2 ≤ (flipGood (withSyms wordsAmbiguous)).length := by decide +kernel
theorem test_witness_flip_unique :
    [] ∉ flipLists (withSyms wordsUnique) ∧ productOf (flipLists (withSyms wordsUnique)) ≤ 1000 ∧
      flipGood (withSyms wordsUnique) = [(words wordsUnique).set 8 0x1FFC] := by decide +kernel

theorem test_witness_orient : isBarcode (swapped (sym65 swappedS2)) := by
  refine ⟨recS2, test_witness_valid_record.1, ?_⟩
  rw [test_witness_barcode_s2]
  decide +kernel
theorem test_witness_orient_not : ¬ ((filled 64 0x54).len = 65 ∧ isBarcode (swapped (sym65 (filled 64 0x54)))) :=
  fun h => absurd h.1 (by decide)

/-! The phases of `DECODE` on 65 symbols: strict (`test_dec_strict`); repaired; neither; upside down
(with `test_dec_orient`). -/

theorem test_witness_phase_repair : ends succeeded .decStrict (withSyms wordsUnique) = some false := by
  decide +kernel

/-- The payload 818532 = 1287·636 (rules R180, R200): serial number 000818532, word 8 repaired. -/
theorem test_rep_flip :
    ends (fun s => (st s, s.record)) .repFlip (withSyms wordsUnique) =
      some (0x01000, { Record.absent with
        bid := field [0, 0], stc := field [0, 0, 0], mid := field [0, 0, 0, 0, 0, 0]
        ser := field [0, 0, 0, 8, 1, 8, 5, 3, 2] }) := by decide +kernel
theorem test_witness_phase_neither :
    ends succeeded .decStrict (filled 65 0x54) = some false ∧
      ends succeeded .repFlip (filled 65 0x54) = some false ∧
      ends succeeded .decOrient (filled 65 0x54) = some true := by decide +kernel
theorem test_witness_phase_orient : ends succeeded .decStrict swappedS2 = some false := by decide +kernel

theorem test_witness_length :
    (filled 63 0x54).len ≠ 64 ∧ (filled 63 0x54).len ≠ 65 ∧ (filled 67 0x54).len ≠ 66 := by decide
theorem test_witness_symbol :
    ¬ inputSymbols (filled 64 0x61) ∧ ¬ inputSymbols (filled 65 0x61) ∧ ¬ inputSymbols (filled 66 0x61) := by
  unfold inputSymbols; decide +kernel

/-- S2's string with its first symbol changed from `A` to `T`. -/
def damagedS2 : State :=
  { State.reset with sym := bufferOf ((render layout (words wordsS2)).set 0 0x54), len := 65 }

theorem test_witness_damage :
    allSyms (sym65 damagedS2) ∧
      ∀ q : Fin 65, (sym65 damagedS2)[q] ≠ (barcodeOf layout recS2)[q] ↔ q = 0 := by
  rw [test_witness_barcode_s2]
  unfold allSyms
  decide +kernel

/-! The invariant. -/

theorem test_witness_invariant :
    Inv { withHost [.write 0 0] with status := validationStatus 5 } ∧
      ∃ t, step { withHost [.write 0 0] with status := validationStatus 5 } = .next t := by
  refine ⟨⟨.inr (.inr (.inl ⟨5, by decide, by decide, rfl⟩)), .inl rfl, .inl ⟨rfl, rfl⟩, ?_⟩, _, rfl⟩
  intro h
  exact absurd h (by decide)

end Sys2Proof.Tests
end

section
/-! SUPPORT. The decoder by rows: the fields of a word and of a masked word, what the opcode map and
the decoder answer, and rule R82's mask and match (spec/30_encoding.md rules R81 to R85). -/

namespace Sys2Proof.Proofs.Encoding

open Sys2Proof

/-! ### The fields of a word (rule R81) -/

/-- The four fields of rule R81 make up the whole word. -/
theorem word_eq_iff_fields (c d : CmdWord) :
    c = d ↔ opField c = opField d ∧ zField c = zField d ∧ mField c = mField d ∧
      aField c = aField d := by
  constructor
  · rintro rfl
    exact ⟨rfl, rfl, rfl, rfl⟩
  · rintro ⟨hop, hz, hm, ha⟩
    simp only [opField, zField, mField, aField, BitVec.extractLsb'_toNat,
      Nat.shiftRight_eq_div_pow] at hop hz hm ha
    bv_omega

theorem opField_and (c k : CmdWord) : opField (c &&& k) = opField c &&& opField k := by
  simp [opField, BitVec.extractLsb'_and]

theorem zField_and (c k : CmdWord) : zField (c &&& k) = zField c &&& zField k := by
  simp [zField, BitVec.extractLsb'_and]

theorem mField_and (c k : CmdWord) : mField (c &&& k) = mField c &&& mField k := by
  simp [mField, BitVec.extractLsb'_and]

theorem aField_and (c k : CmdWord) : aField (c &&& k) = aField c &&& aField k := by
  simp [aField, BitVec.extractLsb'_and]

/-- A mask of all ones keeps a field. -/
theorem field_and_ones {n : Nat} (x : BitVec n) : x.toNat &&& (2 ^ n - 1) = x.toNat :=
  Nat.and_two_pow_sub_one_of_lt_two_pow x.isLt

/-! ### Mask and match (rule R82) -/

/-- The format's mask keeps `op` and `z`, and of `m` and `a` those that must be 0. -/
theorem masked_fields (c : CmdWord) (f : Format) :
    opField (c &&& formatMask f) = opField c ∧ zField (c &&& formatMask f) = zField c ∧
      mField (c &&& formatMask f) = (if f = .Z ∨ f = .A then mField c else 0) ∧
      aField (c &&& formatMask f) = (if f = .Z ∨ f = .M then aField c else 0) := by
  have hop : opField c &&& 255 = opField c := field_and_ones (c.extractLsb' 56 8)
  have hz : zField c &&& 15 = zField c := field_and_ones (c.extractLsb' 52 4)
  have hm : mField c &&& 1048575 = mField c := field_and_ones (c.extractLsb' 32 20)
  have ha : aField c &&& 4294967295 = aField c := field_and_ones (c.extractLsb' 0 32)
  rw [opField_and, zField_and, mField_and, aField_and]
  cases f with
  | Z => exact ⟨hop, hz, hm, ha⟩
  | A => exact ⟨hop, hz, hm, Nat.and_zero _⟩
  | M => exact ⟨hop, hz, Nat.and_zero _, ha⟩
  | MA => exact ⟨hop, hz, Nat.and_zero _, Nat.and_zero _⟩

/-- The must-be-zero fields of each format (rule R85 b, c, d). -/
theorem zerosHold_iff (f : Format) (c : CmdWord) :
    zerosHold f c = true ↔ zField c = 0 ∧ (if f = .Z ∨ f = .A then mField c else 0) = 0 ∧
      (if f = .Z ∨ f = .M then aField c else 0) = 0 := by
  cases f <;> simp [zerosHold]

/-- Mask and match compare the opcode and the must-be-zero fields. -/
theorem selects_iff {op : Nat} (f : Format) (c : CmdWord) (hop : op < 2 ^ 8) :
    selects c (op, f) ↔ opField c = op ∧ zerosHold f c = true := by
  obtain ⟨cop, cz, cm, ca⟩ := masked_fields c f
  obtain ⟨dop, dz, dm, da⟩ :=
    Laws.EncodeFields.assemble_fields hop (m := 0) (a := 0) (by decide) (by decide)
  have hmatch : BitVec.ofNat 64 (op * 2 ^ 56) = assemble op 0 0 := by simp [assemble]
  rw [selects, hmatch, word_eq_iff_fields, cop, cz, cm, ca, dop, dz, dm, da, zerosHold_iff]

/-! ### The opcode map and the decoder (rules R84, R85) -/

/-- What the opcode map answers is a command of that opcode, with the format of the table's row. -/
theorem opcodeRow_sound {op m a : Nat} {f : Format} {i : Instr}
    (h : opcodeRow op m a = some (f, i)) : opcodeOf i = op ∧ (op, f) ∈ opcodeTable := by
  unfold opcodeRow at h
  split at h <;> cases h <;> exact ⟨rfl, by decide⟩

/-- Every row of the table has a command, whatever the operand fields. -/
theorem opcodeRow_of_mem {row : Nat × Format} (h : row ∈ opcodeTable) (m a : Nat) :
    ∃ i, opcodeRow row.1 m a = some (row.2, i) := by
  unfold opcodeTable at h
  fin_cases h <;> exact ⟨_, rfl⟩

theorem opcode_lt_of_mem : ∀ row ∈ opcodeTable, row.1 < 2 ^ 8 := by decide

theorem decode_eq_some_iff (c : CmdWord) (i : Instr) :
    decode c = some i ↔
      ∃ f, opcodeRow (opField c) (mField c) (aField c) = some (f, i) ∧ zerosHold f c = true := by
  unfold decode
  cases opcodeRow (opField c) (mField c) (aField c) with
  | none => simp
  | some r =>
    obtain ⟨f, j⟩ := r
    simp only [Option.ite_none_right_eq_some, Option.some.injEq, Prod.mk.injEq]
    constructor
    · rintro ⟨hzeros, hij⟩
      exact ⟨f, ⟨rfl, hij⟩, hzeros⟩
    · rintro ⟨_, ⟨rfl, hij⟩, hzeros⟩
      exact ⟨hzeros, hij⟩

/-- A word selects a row exactly when it decodes to a command of the row's opcode. -/
theorem selects_iff_decode (c : CmdWord) {row : Nat × Format} (hrow : row ∈ opcodeTable) :
    selects c row ↔ ∃ i, decode c = some i ∧ opcodeOf i = row.1 := by
  obtain ⟨i, hi⟩ := opcodeRow_of_mem hrow (mField c) (aField c)
  rw [selects_iff row.2 c (opcode_lt_of_mem row hrow)]
  constructor
  · rintro ⟨hop, hzeros⟩
    exact ⟨i, (decode_eq_some_iff c i).mpr ⟨row.2, hop ▸ hi, hzeros⟩, (opcodeRow_sound hi).1⟩
  · rintro ⟨j, hj, hopj⟩
    obtain ⟨f, hf, hzeros⟩ := (decode_eq_some_iff c j).mp hj
    have hop : opField c = row.1 := (opcodeRow_sound hf).1.symm.trans hopj
    rw [hop, hi] at hf
    cases hf
    exact ⟨hop, hzeros⟩

/-- A word that decodes selects the row of its opcode. -/
theorem selects_of_decode {c : CmdWord} {i : Instr} (h : decode c = some i) :
    ∃ row ∈ opcodeTable, selects c row := by
  obtain ⟨f, hf, -⟩ := (decode_eq_some_iff c i).mp h
  obtain ⟨hop, hmem⟩ := opcodeRow_sound hf
  exact ⟨_, hmem, (selects_iff_decode c hmem).mpr ⟨i, h, hop⟩⟩

/-- Settles O3: mask and match compare the opcode and the must-be-zero fields (`selects_iff`), and
that is what the decoder checks (`decode_eq_some_iff`). -/
theorem wordSelectsByMaskAndMatch : Obligations.WordSelectsByMaskAndMatch := by
  refine ⟨fun w row hrow => selects_iff_decode w hrow, fun w => ⟨fun hnone row hrow hsel => ?_,
    fun hno => Option.eq_none_iff_forall_ne_some.mpr fun i hi => ?_⟩⟩
  · obtain ⟨i, hi, -⟩ := (selects_iff_decode w hrow).mp hsel
    exact Option.some_ne_none i (hi.symm.trans hnone)
  · obtain ⟨row, hrow, hsel⟩ := selects_of_decode hi
    exact hno row hrow hsel

end Sys2Proof.Proofs.Encoding
end

section
/-! SUPPORT. A faulted core (spec/40_system.md rule R102): what its commands and the host's actions
other than reset leave unchanged. -/

namespace Sys2Proof.Proofs.Faulted

open Sys2Proof.Machine

/-- Every instruction runs its pseudocode through `command` (rule R100). -/
theorem exec_eq_command (i : Instr) (s : State) : ∃ body, exec i s = command body s := by
  cases i <;> (simp only [exec]; exact ⟨_, rfl⟩)

/-- Every instruction is refused by a faulted core. -/
theorem exec_of_fault (i : Instr) {s : State} (h : s.status.fault ≠ 0) : exec i s = .next s := by
  obtain ⟨body, hbody⟩ := exec_eq_command i s
  rw [hbody, command_of_fault body s h]

/-- An illegal word is refused like a command, so it does not replace the fault code. -/
theorem illegalCommand_of_fault {s : State} (h : s.status.fault ≠ 0) :
    illegalCommand s = .next s := command_of_fault _ s h

theorem runWord_of_fault (c : CmdWord) {s : State} (h : s.status.fault ≠ 0) :
    runWord c s = .next s := by
  unfold runWord
  cases decode c with
  | some i => exact exec_of_fault i h
  | none => exact illegalCommand_of_fault h

/-- Index 0 is `CMD` (rule R38). -/
theorem hostWrite_zero (v : Nat) (s : State) :
    hostWrite 0 v s = runWord (BitVec.ofNat 64 v) s := by
  simp only [hostWrite, regElem_zero]

/-- A step is the host's next action (rule R22). -/
theorem step_eq_hostAct {s : State} {a : HostAction} {rest : List HostAction}
    (hh : s.host = a :: rest) : step s = hostAct a { s with host := rest } := by
  simp only [step, portStep, hh]

/-- A faulted core takes a word written to `CMD` off the host's list and does nothing else. -/
theorem step_write_cmd_of_fault {s : State} {v : Nat} {rest : List HostAction}
    (h : s.status.fault ≠ 0) (hh : s.host = .write 0 v :: rest) :
    step s = .next { s with host := rest } := by
  rw [step_eq_hostAct hh, hostAct, hostWrite_zero]
  exact runWord_of_fault _ h

/-- A host write at any index keeps the `STATUS` of a faulted core: `CMD` refuses the word, and no
other index writes `STATUS` (rule R39). -/
theorem hostWrite_status_of_fault {idx : BitVec 10} {v : Nat} {s t : State}
    (h : s.status.fault ≠ 0) (ht : hostWrite idx v s = .next t) : t.status = s.status := by
  unfold hostWrite at ht
  split at ht
  · rw [runWord_of_fault _ h] at ht
    cases ht
    rfl
  · cases ht
    exact writeElem_status _ v s

/-- Only reset changes the `STATUS` of a faulted core. -/
theorem hostAct_status_of_fault {a : HostAction} {s t : State} (h : s.status.fault ≠ 0)
    (ha : a ≠ .reset) (ht : hostAct a s = .next t) : t.status = s.status := by
  cases a with
  | write idx v => exact hostWrite_status_of_fault h ht
  | read idx => cases ht; rfl
  | reset => exact absurd rfl ha

/-- Settles O7: every command and every illegal word runs through `command`, which a faulted core
refuses; of the host's actions only reset then writes `STATUS`. -/
theorem faultedCoreRefusesUntilReset : Obligations.FaultedCoreRefusesUntilReset := by
  refine ⟨fun s v rest hf hh => step_write_cmd_of_fault hf hh, fun s i hf => exec_of_fault i hf,
    fun s t a rest hf hh ht => ?_⟩
  rw [step_eq_hostAct hh] at ht
  refine ⟨fun ha => hostAct_status_of_fault (s := { s with host := rest }) hf ha ht, ?_⟩
  rintro rfl
  cases ht
  rfl

end Sys2Proof.Proofs.Faulted
end

section
/-! SUPPORT. The BigNum commands (spec/41_bignum.md): the words that decode to them, what each does
to a core that is not faulted, and the laws of rule R118. -/

namespace Sys2Proof.Proofs.BigNum

open Sys2Proof Sys2Proof.Machine

/-! ### Their command words (rules R81 to R85) -/

/-- An assembled word decodes to the command of its opcode row, when the fields that the row's
format does not use are 0. -/
theorem decode_assemble {op m a : Nat} {f : Format} {i : Instr} (hop : op < 2 ^ 8)
    (hm : m < 2 ^ 20) (ha : a < 2 ^ 32) (hrow : opcodeRow op m a = some (f, i))
    (hmz : f = .Z ∨ f = .A → m = 0) (haz : f = .Z ∨ f = .M → a = 0) :
    decode (assemble op m a) = some i := by
  obtain ⟨eop, ez, em, ea⟩ := Laws.EncodeFields.assemble_fields hop hm ha
  refine (Encoding.decode_eq_some_iff _ _).mpr ⟨f, by rw [eop, em, ea, hrow], ?_⟩
  rw [Encoding.zerosHold_iff, ez, em, ea]
  exact ⟨rfl, ite_eq_right_iff.mpr hmz, ite_eq_right_iff.mpr haz⟩

/-- The two's complement operand of `BN.ADD` is read back from field `a` (rules R11, R83). -/
theorem sext32_ofInt {k : Int} (hlo : -2 ^ 31 ≤ k) (hhi : k < 2 ^ 31) :
    sext32 (BitVec.ofInt 32 k).toNat = k := by
  have hk : ((BitVec.ofInt 32 k).toNat : Int) = k % 2 ^ 32 := by
    rw [BitVec.toNat_ofInt]
    omega
  unfold sext32
  split <;> omega

theorem decode_bnLdlo {v : Nat} (hv : v < 2 ^ 32) :
    decode (assemble 0x02 0 v) = some (.bnLdlo v) :=
  decode_assemble (f := .A) (by decide) (by decide) hv rfl (by simp) (by simp)

theorem decode_bnAdd {k : Int} (hlo : -2 ^ 31 ≤ k) (hhi : k < 2 ^ 31) :
    decode (assemble 0x04 0 (BitVec.ofInt 32 k).toNat) = some (.bnAdd k) := by
  have hrow : opcodeRow 0x04 0 (BitVec.ofInt 32 k).toNat = some (.A, .bnAdd k) :=
    congrArg (fun j => some (Format.A, Instr.bnAdd j)) (sext32_ofInt hlo hhi)
  exact decode_assemble (by decide) (by decide) (BitVec.isLt _) hrow (by simp) (by simp)

theorem decode_bnMuladd {m a : Nat} (hm : m < 2 ^ 20) (ha : a < 2 ^ 32) :
    decode (assemble 0x05 m a) = some (.bnMuladd m a) :=
  decode_assemble (f := .MA) (by decide) hm ha rfl (by simp) (by simp)

theorem decode_bnDivmod {d : Nat} (hd : d < 2 ^ 20) :
    decode (assemble 0x06 d 0) = some (.bnDivmod d) :=
  decode_assemble (f := .M) (by decide) hd (by decide) rfl (by simp) (by simp)

/-! ### What each command does to a core that is not faulted -/

theorem exec_bnClr {s : State} (h : s.status.fault = 0) :
    exec .bnClr s = .next { s with status := .zero, n := Vector.replicate 10 0 } :=
  command_ok (body := bnClr) h rfl

/-- `BN.LDLO v` (rule R112): the two low limbs, or an operand out of range. -/
theorem exec_bnLdlo_cases (v : Nat) {s : State} (h : s.status.fault = 0) :
    (v < 2 ^ 22 ∧ ∃ n : Limbs, exec (.bnLdlo v) s = .next { s with status := .zero, n := n } ∧
      val n = v ∧
      n = ((Vector.replicate 10 0).set 8 (BitVec.ofNat 11 (v / 2048))).set 9 (BitVec.ofNat 11 v)) ∨
    (2 ^ 22 ≤ v ∧ exec (.bnLdlo v) s = .next { s with status := faultStatus 2 }) := by
  rcases bnLdlo_cases v { s with status := .zero } with ⟨hv, n, hrun, hval, hn⟩ | ⟨hv, hrun⟩
  · exact .inl ⟨hv, n, command_ok h hrun, hval, hn⟩
  · exact .inr ⟨hv, command_raised h hrun⟩

theorem exec_bnIszero {s : State} (h : s.status.fault = 0) :
    exec .bnIszero s =
      .next { s with status := .zero, res := if val s.n = 0 then 1 else 0 } :=
  command_ok h (bnIszero_eq { s with status := .zero })

/-- `BN.ADD k` (rules R114, R120): the exact sum, or an overflow. -/
theorem exec_bnAdd_cases (k : Int) {s : State} (h : s.status.fault = 0) :
    ((0 ≤ (val s.n : Int) + k ∧ (val s.n : Int) + k < 2 ^ 110) ∧
      ∃ n : Limbs, exec (.bnAdd k) s = .next { s with status := .zero, n := n } ∧
        (val n : Int) = val s.n + k) ∨
    (¬ (0 ≤ (val s.n : Int) + k ∧ (val s.n : Int) + k < 2 ^ 110) ∧
      ∃ n : Limbs, exec (.bnAdd k) s =
        .next { s with status := faultStatus 3, n := n, fresh := s.fresh + 1 }) := by
  rcases bnAdd_cases k { s with status := .zero } with ⟨hlo, hhi, n, hrun, hval⟩ | ⟨hout, hrun⟩
  · exact .inl ⟨⟨hlo, hhi⟩, n, command_ok h hrun, hval⟩
  · exact .inr ⟨hout, _, command_raised h hrun⟩

/-- `BN.MULADD m, a` (rules R115, R120): the exact result, or an overflow. -/
theorem exec_bnMuladd_cases (m a : Nat) {s : State} (h : s.status.fault = 0) :
    (val s.n * m + a < 2 ^ 110 ∧
      ∃ n : Limbs, exec (.bnMuladd m a) s = .next { s with status := .zero, n := n } ∧
        val n = val s.n * m + a) ∨
    (2 ^ 110 ≤ val s.n * m + a ∧
      ∃ n : Limbs, exec (.bnMuladd m a) s =
        .next { s with status := faultStatus 3, n := n, fresh := s.fresh + 1 }) := by
  rcases bnMuladd_cases m a { s with status := .zero } with ⟨hin, n, hrun, hval⟩ | ⟨hout, hrun⟩
  · exact .inl ⟨hin, n, command_ok h hrun, hval⟩
  · exact .inr ⟨hout, _, command_raised h hrun⟩

/-- `BN.DIVMOD d` (rule R116) by a divisor that fits field `m`: the remainder fits `RES`. -/
theorem exec_bnDivmod {s : State} {d : Nat} (h : s.status.fault = 0) (hpos : 1 ≤ d)
    (hd : d < 2 ^ 20) :
    ∃ (n : Limbs) (r : BitVec 32),
      exec (.bnDivmod d) s = .next { s with status := .zero, n := n, res := r } ∧
      val n = val s.n / d ∧ r.toNat = val s.n % d := by
  rcases bnDivmod_cases d { s with status := .zero } with ⟨-, n, hrun, hval⟩ | ⟨hzero, -⟩
  · have hrem : val s.n % d < d := Nat.mod_lt _ hpos
    refine ⟨n, _, command_ok h hrun, hval, ?_⟩
    rw [BitVec.toNat_ofNat]
    exact Nat.mod_eq_of_lt (hrem.trans (hd.trans (by decide)))
  · omega

theorem exec_bnDivmod_zero {s : State} (h : s.status.fault = 0) :
    exec (.bnDivmod 0) s = .next { s with status := faultStatus 4 } := by
  rcases bnDivmod_cases 0 { s with status := .zero } with ⟨hpos, -⟩ | ⟨-, hrun⟩
  · omega
  · exact command_raised h hrun

/-! ### The obligations about one command -/

/-- Settles O14: the word has opcode 1 and no operands, and `BN.CLR` ends without a raise. -/
theorem bnClrSetsZero : Obligations.BnClrSetsZero :=
  ⟨by decide, fun _ hf => ⟨exec_bnClr hf, val_zero⟩⟩

/-- Settles O15 from the two cases of `exec_bnLdlo_cases`. -/
theorem bnLdloLoadsTwoLimbs : Obligations.BnLdloLoadsTwoLimbs := by
  refine ⟨fun v hv => decode_bnLdlo hv, fun s v hf => ?_⟩
  rcases exec_bnLdlo_cases v hf with ⟨hv, n, hexec, hval, hn⟩ | ⟨hv, hexec⟩
  · refine ⟨fun _ => ⟨n, hexec, fun i hi => ?_, ?_, ?_, hval⟩, fun hge => by omega⟩
    · simp [hn, show (8 : Nat) ≠ i by omega, show (9 : Nat) ≠ i by omega]
    · have hq : v / 2048 < 2048 := by omega
      simpa [hn, Vector.getElem_set] using hq
    · simp [hn]
  · exact ⟨fun hlt => by omega, fun _ => hexec⟩

/-- Every limb is 0 exactly when the value is 0, limb by limb (rule R113). -/
theorem forall_limb_zero_iff (n : Limbs) : (∀ i : Fin 10, n[i] = 0) ↔ val n = 0 := by
  rw [val_eq_zero_iff]
  constructor
  · intro hall
    ext1 i hi
    rw [Vector.getElem_replicate]
    exact hall ⟨i, hi⟩
  · rintro rfl i
    exact Vector.getElem_replicate _

/-- Settles O16: `exec_bnIszero` tests the value, `forall_limb_zero_iff` the limbs. -/
theorem bnIszeroTestsEveryLimb : Obligations.BnIszeroTestsEveryLimb := by
  refine ⟨by decide, fun s hf => ⟨_, exec_bnIszero hf, fun hall => ?_, fun hnot => ?_,
    forall_limb_zero_iff s.n⟩⟩
  · exact if_pos ((forall_limb_zero_iff s.n).mp hall)
  · exact if_neg (mt (forall_limb_zero_iff s.n).mpr hnot)

/-- Settles O17 from the two cases of `exec_bnAdd_cases`. -/
theorem bnAddIsExactOrFaults : Obligations.BnAddIsExactOrFaults := by
  refine ⟨fun k hlo hhi => decode_bnAdd hlo hhi, fun s k hf => ?_⟩
  rcases exec_bnAdd_cases k hf with ⟨hin, hexec⟩ | ⟨hout, hexec⟩
  · exact ⟨fun _ => hexec, fun hout => absurd hin hout⟩
  · exact ⟨fun hin => absurd hin hout, fun _ => hexec⟩

/-- Settles O18 from the two cases of `exec_bnMuladd_cases`. -/
theorem bnMuladdIsExactOrFaults : Obligations.BnMuladdIsExactOrFaults := by
  refine ⟨fun m a hm ha => decode_bnMuladd hm ha, fun s m a hf => ?_⟩
  rcases exec_bnMuladd_cases m a hf with ⟨hin, hexec⟩ | ⟨hout, hexec⟩
  · exact ⟨fun _ => hexec, fun hout => absurd hin hout.not_gt⟩
  · exact ⟨fun hin => absurd hin hout.not_gt, fun _ => hexec⟩

/-- Settles O19: `exec_bnDivmod` for a divisor that is not 0, `exec_bnDivmod_zero` for 0. -/
theorem bnDivmodIsFloorDivision : Obligations.BnDivmodIsFloorDivision := by
  refine ⟨fun d hd => decode_bnDivmod hd, fun s d hf hd =>
    ⟨fun hpos => exec_bnDivmod hf hpos hd, ?_⟩⟩
  rintro rfl
  exact exec_bnDivmod_zero hf

/-! ### The laws of rule R118 -/

/-- A `BN.MULADD` that ends without a fault has left the exact result. -/
theorem exec_bnMuladd_next {s t : State} {m a : Nat} (hf : s.status.fault = 0)
    (hexec : exec (.bnMuladd m a) s = .next t) (ht : t.status.fault = 0) :
    ∃ n : Limbs, t = { s with status := .zero, n := n } ∧ val n = val s.n * m + a := by
  rcases exec_bnMuladd_cases m a hf with ⟨-, n, hnext, hval⟩ | ⟨-, n, hnext⟩
  · cases hexec.symm.trans hnext
    exact ⟨n, rfl, hval⟩
  · cases hexec.symm.trans hnext
    exact absurd ht (show (faultStatus 3).fault ≠ 0 by decide)

/-- A `BN.ADD` that ends without a fault has left the exact sum. -/
theorem exec_bnAdd_next {s t : State} {k : Int} (hf : s.status.fault = 0)
    (hexec : exec (.bnAdd k) s = .next t) (ht : t.status.fault = 0) :
    ∃ n : Limbs, t = { s with status := .zero, n := n } ∧ (val n : Int) = val s.n + k := by
  rcases exec_bnAdd_cases k hf with ⟨-, n, hnext, hval⟩ | ⟨-, n, hnext⟩
  · cases hexec.symm.trans hnext
    exact ⟨n, rfl, hval⟩
  · cases hexec.symm.trans hnext
    exact absurd ht (show (faultStatus 3).fault ≠ 0 by decide)

/-- Law (a) of rule R118: `BN.DIVMOD m` after `BN.MULADD m, a`. -/
theorem divmod_after_muladd {s t : State} {m a : Nat} (hf : s.status.fault = 0) (hpos : 1 ≤ m)
    (hm : m < 2 ^ 20) (hexec : exec (.bnMuladd m a) s = .next t) (ht : t.status.fault = 0) :
    ∃ u, exec (.bnDivmod m) t = .next u ∧ u.status = .zero ∧ u.res.toNat = a % m ∧
      val u.n = val s.n + a / m ∧ (u.n = s.n ↔ a < m) := by
  obtain ⟨n, rfl, hval⟩ := exec_bnMuladd_next hf hexec ht
  obtain ⟨q, r, hnext, hq, hr⟩ := exec_bnDivmod ht hpos hm
  have hquot : val q = val s.n + a / m := by
    rw [hq, hval, Nat.mul_comm, Nat.mul_add_div hpos]
  have hrem : r.toNat = a % m := by
    rw [hr, hval, Nat.mul_add_mod']
  have hsame : q = s.n ↔ val q = val s.n := ⟨congrArg val, val_injective⟩
  exact ⟨_, hnext, rfl, hrem, hquot, by
    rw [hsame, hquot, Nat.add_eq_left, Nat.div_eq_zero_iff_lt hpos]⟩

/-- Law (b) of rule R118: `BN.ADD -k` after `BN.ADD k`. The sum goes back to `val(N₀)`, which is in
range, so the second command cannot overflow. -/
theorem add_neg_after_add {s t : State} {k : Int} (hf : s.status.fault = 0)
    (hexec : exec (.bnAdd k) s = .next t) (ht : t.status.fault = 0) :
    exec (.bnAdd (-k)) t = .next { s with status := .zero } := by
  obtain ⟨n, rfl, hval⟩ := exec_bnAdd_next hf hexec ht
  have hback : (val n : Int) + -k = val s.n := by rw [hval, add_neg_cancel_right]
  have hrange := val_lt s.n
  rcases exec_bnAdd_cases (-k) ht with ⟨-, n', hnext, hval'⟩ | ⟨hout, -⟩
  · have hn : n' = s.n := val_injective (Int.ofNat_inj.mp (hval'.trans hback))
    rw [hnext, hn]
  · refine absurd ?_ hout
    rw [hback]
    omega

/-- Settles O20: the two laws, each from what its first command has left. -/
theorem bigNumLaws : Obligations.BigNumLaws :=
  ⟨fun _ _ _ _ hf hpos hm _ hexec ht => divmod_after_muladd hf hpos hm hexec ht,
    fun _ _ _ hf _ _ hexec ht => add_neg_after_add hf hexec ht⟩

end Sys2Proof.Proofs.BigNum
end

section
/-! SUPPORT. The frame-check sequence (spec/42_fcs.md): the 12-bit temporary follows the unbounded
one of rule R130, what the two commands do to a core that is not faulted, and the differences that
single-bit changes make (rule R134). -/

namespace Sys2Proof.Proofs.Fcs

open Sys2Proof Sys2Proof.Machine

/-! ### The temporary of rule R130 stays below `2 ^ 11` -/

/-- The polynomial has bit 11 set, so after a shift the temporary never has. -/
theorem fcsShift_lt (f : BitVec 12) : (fcsShift f).toNat < 2 ^ 11 := by
  have hbit : (fcsShift f).getLsbD 11 = false := by
    rw [fcsShift_eq, BitVec.getLsbD_xor]
    cases (f <<< 1).getLsbD 11 <;> decide
  have hmsb : (fcsShift f).msb = false := hbit
  have hhalf := BitVec.msb_eq_false_iff_two_mul_lt.mp hmsb
  omega

theorem fcsShifts_lt (k : Nat) {f : BitVec 12} (hf : f.toNat < 2 ^ 11) :
    (fcsShifts k f).toNat < 2 ^ 11 := by
  induction k generalizing f with
  | zero => exact hf
  | succ k ih => exact ih (fcsShift_lt f)

/-- A limb has 11 bits, so exclusive-oring it in keeps the bound. -/
theorem xor_limb_lt {f : BitVec 12} (hf : f.toNat < 2 ^ 11) (x : Limb) :
    (f ^^^ x.setWidth 12).toNat < 2 ^ 11 := by
  rw [BitVec.toNat_xor, BitVec.toNat_setWidth_of_le (by decide)]
  exact Nat.xor_lt_two_pow hf x.isLt

theorem fcsLimb_lt {f : BitVec 12} (hf : f.toNat < 2 ^ 11) (x : Limb) :
    (fcsLimb f x).toNat < 2 ^ 11 := fcsShifts_lt 11 (xor_limb_lt hf x)

/-! ### The unbounded temporary -/

/-- Below `2 ^ 11` no bit is shifted out of the 12-bit temporary. -/
theorem fcsNatShift_toNat {f : BitVec 12} (hf : f.toNat < 2 ^ 11) :
    fcsNatShift f.toNat = (fcsShift f).toNat := by
  have hshift : f.toNat <<< 1 = (f <<< 1).toNat := by
    rw [BitVec.toNat_shiftLeft, Nat.shiftLeft_eq, Nat.mod_eq_of_lt (by omega)]
  have hbit : f.toNat <<< 1 &&& 0x800 ≠ 0 ↔ (f <<< 1).getLsbD 11 = true := by
    rw [hshift, show (0x800 : Nat) = 2 ^ 11 from rfl, Nat.and_two_pow, BitVec.getLsbD]
    cases (f <<< 1).toNat.testBit 11 <;> decide
  unfold fcsNatShift fcsShift
  by_cases hset : (f <<< 1).getLsbD 11 = true
  · rw [if_pos (hbit.mpr hset), if_pos hset, BitVec.toNat_xor, hshift]
    rfl
  · rw [if_neg (mt hbit.mp hset), if_neg hset, hshift]

theorem fcsNatShifts_toNat (k : Nat) {f : BitVec 12} (hf : f.toNat < 2 ^ 11) :
    fcsNatShifts k f.toNat = (fcsShifts k f).toNat := by
  induction k generalizing f with
  | zero => rfl
  | succ k ih => rw [fcsNatShifts, fcsNatShift_toNat hf, ih (fcsShift_lt f), fcsShifts]

/-- One limb of rule R130 on the unbounded temporary. -/
def fcsNatLimb (f : Nat) (x : Limb) : Nat := fcsNatShifts 11 (f ^^^ x.toNat)

theorem fcsNat_eq_foldl (n : Limbs) : fcsNat n = n.toList.foldl fcsNatLimb 0x1F0 &&& 0x7FF := rfl

theorem fcsNatLimb_toNat {f : BitVec 12} (hf : f.toNat < 2 ^ 11) (x : Limb) :
    fcsNatLimb f.toNat x = (fcsLimb f x).toNat := by
  have hxor : f.toNat ^^^ x.toNat = (f ^^^ x.setWidth 12).toNat := by
    rw [BitVec.toNat_xor, BitVec.toNat_setWidth_of_le (by decide)]
  rw [fcsNatLimb, hxor, fcsNatShifts_toNat 11 (xor_limb_lt hf x), fcsLimb]

theorem foldl_fcsNatLimb_toNat (l : List Limb) {f : BitVec 12} (hf : f.toNat < 2 ^ 11) :
    l.foldl fcsNatLimb f.toNat = (l.foldl fcsLimb f).toNat := by
  induction l generalizing f with
  | nil => rfl
  | cons x l ih =>
    rw [List.foldl_cons, List.foldl_cons, fcsNatLimb_toNat hf, ih (fcsLimb_lt hf x)]

/-- The 12-bit register is enough (rule R130). -/
theorem fcsOf_toNat (n : Limbs) : (fcsOf n).toNat = fcsNat n := by
  have hfold := foldl_fcsNatLimb_toNat n.toList (f := fcsSeed) (by decide)
  have hseed : fcsSeed.toNat = 0x1F0 := rfl
  rw [fcsNat_eq_foldl, ← hseed, hfold, fcsOf, BitVec.toNat_setWidth]
  exact (Nat.and_two_pow_sub_one_eq_mod _ 11).symm

/-! ### What the two commands do to a core that is not faulted -/

theorem exec_fcsCalc {s : State} (h : s.status.fault = 0) :
    exec .fcsCalc s = .next { s with status := .zero, fcs := fcsOf s.n } :=
  command_ok (body := fcsCalc) h rfl

/-- `FCS.CHK` (rule R132): `FCS` is written either way. -/
theorem exec_fcsChk_cases {s : State} (h : s.status.fault = 0) :
    (fcsOf s.n = s.fcsr ∧
      exec .fcsChk s = .next { s with status := .zero, fcs := fcsOf s.n }) ∨
    (fcsOf s.n ≠ s.fcsr ∧
      exec .fcsChk s = .next { s with status := decodingStatus 4 4, fcs := fcsOf s.n }) := by
  rcases fcsChk_cases { s with status := .zero } with ⟨heq, hrun⟩ | ⟨hne, hrun⟩
  · exact .inl ⟨heq, command_ok h hrun⟩
  · exact .inr ⟨hne, command_raised h hrun⟩

/-- Settles O21: `exec_fcsCalc`, and the unbounded temporary by `fcsOf_toNat`. -/
theorem fcsCalcWritesTheFcs : Obligations.FcsCalcWritesTheFcs :=
  ⟨by decide, fun s hf => ⟨fcsOf s.n, exec_fcsCalc hf, fcsOf_toNat s.n⟩,
    by decide +kernel, by decide +kernel, by decide +kernel⟩

/-- Settles O22 from the two cases of `exec_fcsChk_cases`. -/
theorem fcsChkComparesAllElevenBits : Obligations.FcsChkComparesAllElevenBits := by
  refine ⟨by decide, fun s hf => ⟨fcsOf s.n, fcsOf_toNat s.n, ?_⟩⟩
  rcases exec_fcsChk_cases hf with ⟨heq, hexec⟩ | ⟨hne, hexec⟩
  · exact ⟨fun _ => hexec, fun hne => absurd heq hne⟩
  · exact ⟨fun heq => absurd heq hne, fun _ => hexec⟩

/-! ### The difference that a changed limb makes -/

theorem fcsShifts_add (j k : Nat) (f : BitVec 12) :
    fcsShifts (j + k) f = fcsShifts k (fcsShifts j f) := by
  induction j generalizing f with
  | zero => rw [Nat.zero_add, fcsShifts]
  | succ j ih => rw [Nat.succ_add, fcsShifts, ih, fcsShifts]

/-- A difference of the temporary goes through a limb's 11 shifts. -/
theorem fcsLimb_xor_left (f d : BitVec 12) (x : Limb) :
    fcsLimb (f ^^^ d) x = fcsLimb f x ^^^ fcsShifts 11 d := by
  rw [fcsLimb, BitVec.xor_assoc, BitVec.xor_comm d, ← BitVec.xor_assoc, fcsShifts_xor, fcsLimb]

/-- So does a difference of the limb. -/
theorem fcsLimb_xor_right (f : BitVec 12) (x d : Limb) :
    fcsLimb f (x ^^^ d) = fcsLimb f x ^^^ fcsShifts 11 (d.setWidth 12) := by
  rw [fcsLimb, BitVec.setWidth_xor, ← BitVec.xor_assoc, fcsShifts_xor, fcsLimb]

theorem foldl_fcsLimb_xor (l : List Limb) (f d : BitVec 12) :
    l.foldl fcsLimb (f ^^^ d) = l.foldl fcsLimb f ^^^ fcsShifts (11 * l.length) d := by
  induction l generalizing f d with
  | nil => rfl
  | cons x l ih =>
    rw [List.foldl_cons, List.foldl_cons, fcsLimb_xor_left, ih, ← fcsShifts_add,
      List.length_cons, Nat.mul_succ, Nat.add_comm]

/-- A change of limb `i` is shifted by that limb and by all that follow it. -/
theorem foldl_fcsLimb_set (l : List Limb) (i : Nat) (hi : i < l.length) (d : Limb)
    (f : BitVec 12) :
    (l.set i (l[i] ^^^ d)).foldl fcsLimb f =
      l.foldl fcsLimb f ^^^ fcsShifts (11 * (l.length - i)) (d.setWidth 12) := by
  induction l generalizing i f with
  | nil => exact absurd hi (Nat.not_lt_zero i)
  | cons x l ih =>
    cases i with
    | zero =>
      rw [List.set_cons_zero, List.getElem_cons_zero, List.foldl_cons, List.foldl_cons,
        fcsLimb_xor_right, foldl_fcsLimb_xor, ← fcsShifts_add, List.length_cons, Nat.sub_zero,
        Nat.mul_succ, Nat.add_comm]
    | succ i =>
      rw [List.set_cons_succ, List.getElem_cons_succ, List.foldl_cons, List.foldl_cons, ih,
        List.length_cons, Nat.add_sub_add_right]

/-- The difference that flipping bit `b` of limb `i` makes (rule R134). -/
def flipDiff (i : Fin 10) (b : Fin 11) : BitVec 11 :=
  (fcsShifts (11 * (10 - i)) ((BitVec.twoPow 11 b).setWidth 12)).setWidth 11

theorem fcsOf_set_xor (n : Limbs) (i : Fin 10) (b : Fin 11) :
    fcsOf (n.set i (n[i] ^^^ BitVec.twoPow 11 b)) ^^^ fcsOf n = flipDiff i b := by
  have hfold := foldl_fcsLimb_set n.toList i (by simp) (BitVec.twoPow 11 b) fcsSeed
  simp only [Vector.length_toList, Vector.getElem_toList] at hfold
  rw [fcsOf, Vector.toList_set, Fin.getElem_fin, hfold, BitVec.setWidth_xor, fcsOf,
    BitVec.xor_comm, ← BitVec.xor_assoc, BitVec.xor_self, BitVec.zero_xor, flipDiff]

/-! ### The 110 differences

Bit `b` is bit 0 shifted `b` times, so each difference is bit 0 shifted a number of times that tells
the position. Shifting is injective; two differences that agree would have bit 0 come back to itself
after fewer than 110 shifts. -/

/-- The polynomial is odd, so only 0 is shifted to 0. -/
theorem eq_zero_of_fcsShift_eq_zero {f : BitVec 12} (hf : f.toNat < 2 ^ 11)
    (h : fcsShift f = 0) : f = 0 := by
  have heven : (f <<< 1).toNat = 2 * f.toNat := by
    rw [BitVec.toNat_shiftLeft, Nat.shiftLeft_eq, Nat.mod_eq_of_lt (by omega), Nat.mul_comm]
  rw [fcsShift_eq] at h
  have hg := congrArg BitVec.toNat (BitVec.xor_eq_zero_iff.mp h)
  rw [heven] at hg
  split at hg
  · have hodd : fcsPoly.toNat = 0xF35 := rfl
    omega
  · exact BitVec.eq_of_toNat_eq (by simpa using hg)

theorem fcsShift_injOn {f g : BitVec 12} (hf : f.toNat < 2 ^ 11) (hg : g.toNat < 2 ^ 11)
    (h : fcsShift f = fcsShift g) : f = g := by
  have hlt : (f ^^^ g).toNat < 2 ^ 11 := by
    rw [BitVec.toNat_xor]
    exact Nat.xor_lt_two_pow hf hg
  have hzero : fcsShift (f ^^^ g) = 0 := by rw [fcsShift_xor, h, BitVec.xor_self]; rfl
  exact BitVec.xor_eq_zero_iff.mp (eq_zero_of_fcsShift_eq_zero hlt hzero)

theorem fcsShifts_injOn (k : Nat) {f g : BitVec 12} (hf : f.toNat < 2 ^ 11)
    (hg : g.toNat < 2 ^ 11) (h : fcsShifts k f = fcsShifts k g) : f = g := by
  induction k generalizing f g with
  | zero => exact h
  | succ k ih => exact fcsShift_injOn hf hg (ih (fcsShift_lt f) (fcsShift_lt g) h)

theorem fcsShifts_zero_right (k : Nat) : fcsShifts k 0 = 0 := by
  induction k with
  | zero => rfl
  | succ k ih => exact ih

/-- Bit 0 is not shifted to itself in fewer than 110 shifts. -/
theorem fcsShifts_one_ne_one : ∀ m < 110, 0 < m → fcsShifts m 1 ≠ 1 := by decide

theorem fcsShifts_one_ne_of_lt {j k : Nat} (hlt : j < k) (hk : k - j < 110) :
    fcsShifts j 1 ≠ fcsShifts k 1 := by
  intro h
  have hsplit : fcsShifts k 1 = fcsShifts j (fcsShifts (k - j) 1) := by
    rw [← fcsShifts_add, Nat.sub_add_cancel hlt.le]
  have hone : 1 = fcsShifts (k - j) 1 :=
    fcsShifts_injOn j (by decide) (fcsShifts_lt _ (by decide)) (h.trans hsplit)
  exact fcsShifts_one_ne_one (k - j) hk (Nat.sub_pos_of_lt hlt) hone.symm

/-- How often bit 0 is shifted to give the difference of a position. -/
def flipShifts (i : Fin 10) (b : Fin 11) : Nat := b + 11 * (10 - i)

theorem flipShifts_range (i : Fin 10) (b : Fin 11) :
    11 ≤ flipShifts i b ∧ flipShifts i b ≤ 120 := by
  unfold flipShifts
  omega

theorem flipShifts_inj {i i' : Fin 10} {b b' : Fin 11} (h : flipShifts i b = flipShifts i' b') :
    i = i' ∧ b = b' := by
  unfold flipShifts at h
  omega

theorem twoPow_eq_fcsShifts_one :
    ∀ b : Fin 11, (BitVec.twoPow 11 b).setWidth 12 = fcsShifts b 1 := by decide

theorem flipDiff_eq (i : Fin 10) (b : Fin 11) :
    flipDiff i b = (fcsShifts (flipShifts i b) 1).setWidth 11 := by
  rw [flipDiff, twoPow_eq_fcsShifts_one, ← fcsShifts_add, flipShifts]

/-- The low 11 bits are all of a temporary below `2 ^ 11`. -/
theorem setWidth_injOn {f g : BitVec 12} (hf : f.toNat < 2 ^ 11) (hg : g.toNat < 2 ^ 11)
    (h : f.setWidth 11 = g.setWidth 11) : f = g := by
  have hnat := congrArg BitVec.toNat h
  rw [BitVec.toNat_setWidth, BitVec.toNat_setWidth, Nat.mod_eq_of_lt hf,
    Nat.mod_eq_of_lt hg] at hnat
  exact BitVec.eq_of_toNat_eq hnat

theorem flipDiff_ne_zero (i : Fin 10) (b : Fin 11) : flipDiff i b ≠ 0 := by
  rw [flipDiff_eq]
  intro h
  have hzero : fcsShifts (flipShifts i b) 1 = 0 :=
    setWidth_injOn (fcsShifts_lt _ (by decide)) (by decide) h
  rw [← fcsShifts_zero_right (flipShifts i b)] at hzero
  exact absurd (fcsShifts_injOn _ (by decide) (by decide) hzero) (by decide)

theorem flipDiff_inj {i i' : Fin 10} {b b' : Fin 11} (h : flipDiff i b = flipDiff i' b') :
    i = i' ∧ b = b' := by
  rw [flipDiff_eq, flipDiff_eq] at h
  have hshifts : fcsShifts (flipShifts i b) 1 = fcsShifts (flipShifts i' b') 1 :=
    setWidth_injOn (fcsShifts_lt _ (by decide)) (fcsShifts_lt _ (by decide)) h
  have hr := flipShifts_range i b
  have hr' := flipShifts_range i' b'
  rcases Nat.lt_trichotomy (flipShifts i b) (flipShifts i' b') with hlt | heq | hgt
  · exact absurd hshifts (fcsShifts_one_ne_of_lt hlt (by omega))
  · exact flipShifts_inj heq
  · exact absurd hshifts.symm (fcsShifts_one_ne_of_lt hgt (by omega))

/-- Settles O24 with `flipDiff`: `fcsOf_set_xor`, then `flipDiff_ne_zero` and `flipDiff_inj`. -/
theorem fcsDetectsEverySingleBit : Obligations.FcsDetectsEverySingleBit :=
  ⟨flipDiff, fcsOf_set_xor, flipDiff_ne_zero, fun _ _ _ _ h => flipDiff_inj h,
    by decide +kernel, by decide +kernel, by decide +kernel, by decide +kernel⟩

end Sys2Proof.Proofs.Fcs
end

section
/-! SUPPORT. `CW.MAP` and `CW.UNMAP` (spec/46_codewords.md rules R205, R206): what the two commands
do to a core that is not faulted, the indices that words have, and the register that the ten FCS
bits make. -/

namespace Sys2Proof.Proofs.Codeword

open Sys2Proof Sys2Proof.Machine

/-! ### `CW.MAP` (rule R205) -/

/-- The complement of a word is its exclusive or with all ones (rule R15). -/
theorem mapWord_eq_xor (cw : Codewords) (fcs : BitVec 11) (i : Fin 10) :
    mapWord cw fcs i = romEnc cw[i].toNat ^^^ (if fcs.getLsbD i then 0x1FFF else 0) := by
  unfold mapWord
  cases fcs.getLsbD i
  · exact BitVec.xor_zero.symm
  · rfl

theorem exec_cwMap_of_le {s : State} (hf : s.status.fault = 0)
    (hle : ∀ i : Fin 10, s.cw[i].toNat ≤ 1364) :
    exec .cwMap s =
      .next { s with status := .zero, w := Vector.ofFn fun i => mapWord s.cw s.fcs i } := by
  rcases cwMap_cases { s with status := .zero } with ⟨-, hrun⟩ | ⟨⟨x, hx, hgt⟩, -⟩
  · exact command_ok (body := cwMap) hf hrun
  · obtain ⟨i, hi, rfl⟩ := Vector.mem_iff_getElem.mp (Vector.mem_toList_iff.mp hx)
    exact absurd (hle ⟨i, hi⟩) (Nat.not_le_of_lt hgt)

theorem exec_cwMap_of_lt {s : State} (hf : s.status.fault = 0) {i : Fin 10}
    (hgt : 1364 < s.cw[i].toNat) :
    exec .cwMap s = .next { s with status := faultStatus 2 } := by
  rcases cwMap_cases { s with status := .zero } with ⟨hle, -⟩ | ⟨-, hrun⟩
  · have hmem : s.cw[i] ∈ s.cw.toList :=
      Vector.mem_toList_iff.mpr (Vector.getElem_mem i.isLt)
    exact absurd (hle _ hmem) (Nat.not_le_of_lt hgt)
  · exact command_raised (body := cwMap) hf hrun

/-- Settles O40: both endings of `CW.MAP`, and its words by `mapWord_eq_xor`. -/
theorem mapFoldsTheFcsIn : Obligations.MapFoldsTheFcsIn := by
  refine ⟨by decide, fun s hf => ⟨fun hle => ⟨_, exec_cwMap_of_le hf hle, fun i => ?_⟩,
    fun ⟨_, hgt⟩ => exec_cwMap_of_lt hf hgt⟩⟩
  rw [Fin.getElem_fin, Vector.getElem_ofFn]
  exact mapWord_eq_xor s.cw s.fcs i

/-! ### The indices of words (rules R146, R206 step 2) -/

theorem encTable_length : encTable.length = 1365 := by decide +kernel

theorem encIndex_lt {w : Char13} {c : Nat} (h : encIndex w = some c) : c < 1365 := by
  obtain ⟨hlt, -⟩ := List.findIdx?_eq_some_iff_getElem.mp h
  exact encTable_length ▸ hlt

/-- Every index is one of the table's: the word is looked up as it stands or complemented. -/
theorem romDec_lt {w : Char13} {c : Nat} (h : romDec w = some c) : c < 1365 := by
  unfold romDec at h
  split at h
  · exact encIndex_lt h
  · exact encIndex_lt h
  · exact encIndex_lt h
  · exact encIndex_lt h
  · cases h

theorem wordIndex_of_romDec {w : Words} {i : Fin 10} {c : Nat} (h : romDec w[i] = some c) :
    wordIndex w i = c := by
  rw [wordIndex, h, Option.getD_some]

/-- One word without an index is enough. -/
theorem anyInvalid_of_romDec_none {w : Words} {i : Fin 10} (h : romDec w[i] = none) :
    anyInvalid w = true := by
  by_contra hvalid
  obtain ⟨c, hc⟩ := (anyInvalid_eq_false_iff w).mp (Bool.eq_false_of_not_eq_true hvalid) i
  exact Option.some_ne_none c (hc.symm.trans h)

/-! ### The codewords of a word set (rule R206, step 6)

An index of the table fits a codeword's 11 bits, so nothing is cut off. -/

theorem unmapped_toNat {w : Words} {i : Fin 10} {c : Nat} (h : romDec w[i] = some c) :
    (unmapped w)[i].toNat = if i = 9 then c / 2 else if i = 0 ∧ 659 ≤ c then c - 659 else c := by
  have hc := romDec_lt h
  rw [unmapped, Fin.getElem_fin, Vector.getElem_ofFn, wordIndex_of_romDec h, BitVec.toNat_ofNat]
  exact Nat.mod_eq_of_lt (by split_ifs <;> omega)

/-! ### The FCS bits of a word set (rule R206, steps 3 and 6) -/

/-- A one-bit value shifted to place `i` has its bit there and no other. -/
theorem getLsbD_bit_shiftLeft (b : BitVec 1) (i k : Nat) (hk : k < 11) :
    (b.setWidth 11 <<< i).getLsbD k = (decide (k = i) && (b == 1)) := by
  rw [BitVec.getLsbD_shiftLeft, BitVec.getLsbD_setWidth]
  rcases Nat.lt_trichotomy k i with hlt | rfl | hgt
  · simp [hlt, hlt.ne]
  · rcases BitVec.eq_zero_or_eq_one b with rfl | rfl <;> simp [hk]
  · have hplace : 1 ≤ k - i := by omega
    rw [BitVec.getLsbD_of_ge b _ hplace]
    simp [hgt.ne']

/-- Gathering one-bit values at their places: bit `k` is that of the position `k`. -/
theorem getLsbD_foldl_or (g : Fin 10 → BitVec 1) (l : List (Fin 10)) (acc : BitVec 11) {k : Nat}
    (hk : k < 11) :
    (l.foldl (fun f i => f ||| ((g i).setWidth 11 <<< i.val)) acc).getLsbD k =
      (acc.getLsbD k || l.any fun i => decide (k = i.val) && (g i == 1)) := by
  induction l generalizing acc with
  | nil => simp
  | cons i l ih =>
    rw [List.foldl_cons, ih, BitVec.getLsbD_or, getLsbD_bit_shiftLeft _ _ _ hk, List.any_cons,
      Bool.or_assoc]

theorem wordBits_getLsbD (w : Words) {k : Nat} (hk : k < 11) :
    (wordBits w).getLsbD k =
      (List.finRange 10).any fun i => decide (k = i.val) && (romFcs w[i] == 1) := by
  rw [wordBits, getLsbD_foldl_or (fun i => romFcs w[i]) _ _ hk, BitVec.ofNat_eq_ofNat,
    BitVec.getLsbD_zero, Bool.false_or]

/-- Bit `i` comes from word `i`. -/
theorem wordBits_getLsbD_fin (w : Words) (i : Fin 10) :
    (wordBits w).getLsbD i = (romFcs w[i] == 1) := by
  rw [wordBits_getLsbD w (by omega), Bool.eq_iff_iff, List.any_eq_true]
  constructor
  · rintro ⟨j, -, hj⟩
    obtain ⟨hij, hbit⟩ := Bool.and_eq_true_iff.mp hj
    rwa [Fin.ext (of_decide_eq_true hij)]
  · intro hbit
    exact ⟨i, List.mem_finRange i, Bool.and_eq_true_iff.mpr ⟨decide_eq_true rfl, hbit⟩⟩

/-- No word carries bit 10. -/
theorem wordBits_getLsbD_ten (w : Words) : (wordBits w).getLsbD 10 = false := by
  rw [wordBits_getLsbD w (by decide), List.any_eq_false]
  intro i _
  have hne : ¬10 = i.val := by omega
  rw [decide_eq_false hne, Bool.false_and]
  exact Bool.false_ne_true

/-- The offset of codeword 0 is bit 10 of the register, and nothing else. -/
theorem unmappedFcs_getLsbD (w : Words) (k : Nat) :
    (unmappedFcs w).getLsbD k =
      ((wordBits w).getLsbD k || (decide (659 ≤ wordIndex w 0) && decide (k = 10))) := by
  have hbit : (0x400 : BitVec 11).getLsbD k = decide (k = 10) := by
    rw [show (0x400 : BitVec 11) = BitVec.twoPow 11 10 from rfl, BitVec.getLsbD_twoPow]
    simp [eq_comm]
  unfold unmappedFcs
  split
  case isTrue h => rw [BitVec.getLsbD_or, hbit, decide_eq_true h, Bool.true_and]
  case isFalse h => rw [decide_eq_false h, Bool.false_and, Bool.or_false]

theorem unmappedFcs_getLsbD_fin (w : Words) (i : Fin 10) :
    (unmappedFcs w).getLsbD i = (romFcs w[i] == 1) := by
  have hne : ¬i.val = 10 := by omega
  rw [unmappedFcs_getLsbD, wordBits_getLsbD_fin, decide_eq_false hne, Bool.and_false,
    Bool.or_false]

theorem unmappedFcs_getLsbD_ten (w : Words) :
    (unmappedFcs w).getLsbD 10 = decide (659 ≤ wordIndex w 0) := by
  rw [unmappedFcs_getLsbD, wordBits_getLsbD_ten, Bool.false_or, decide_eq_true rfl, Bool.and_true]

/-! ### `CW.UNMAP` (rule R206) -/

/-- The four endings of `CW.UNMAP` on a core that is not faulted, in the order of the checks. -/
theorem exec_cwUnmap_cases {s : State} (hf : s.status.fault = 0) :
    (anyInvalid s.w = true ∧ exec .cwUnmap s = .next { s with status := decodingStatus 4 1 }) ∨
    (anyInvalid s.w = false ∧ (wordIndex s.w 0 > 1317 ∨ wordIndex s.w 9 > 1270) ∧
      exec .cwUnmap s = .next { s with status := decodingStatus 4 2 }) ∨
    (anyInvalid s.w = false ∧ wordIndex s.w 0 ≤ 1317 ∧ wordIndex s.w 9 ≤ 1270 ∧
      wordIndex s.w 9 % 2 = 1 ∧
      exec .cwUnmap s = .next { s with status := decodingStatus 4 3 }) ∨
    (anyInvalid s.w = false ∧ wordIndex s.w 0 ≤ 1317 ∧ wordIndex s.w 9 ≤ 1270 ∧
      wordIndex s.w 9 % 2 = 0 ∧
      exec .cwUnmap s =
        .next { s with status := .zero, cw := unmapped s.w, fcsr := unmappedFcs s.w }) := by
  rcases cwUnmap_cases { s with status := .zero } with
    ⟨hinv, hrun⟩ | ⟨hval, hr, hrun⟩ | ⟨hval, h0, h9, hodd, hrun⟩ | ⟨hval, h0, h9, heven, hrun⟩
  · exact .inl ⟨hinv, command_raised (body := cwUnmap) hf hrun⟩
  · exact .inr (.inl ⟨hval, hr, command_raised (body := cwUnmap) hf hrun⟩)
  · exact .inr (.inr (.inl ⟨hval, h0, h9, hodd, command_raised (body := cwUnmap) hf hrun⟩))
  · exact .inr (.inr (.inr ⟨hval, h0, h9, heven, command_ok (body := cwUnmap) hf hrun⟩))

theorem exec_cwUnmap_of_invalid {s : State} (hf : s.status.fault = 0) {i : Fin 10}
    (hi : romDec s.w[i] = none) :
    exec .cwUnmap s = .next { s with status := decodingStatus 4 1 } := by
  have hinv := anyInvalid_of_romDec_none hi
  rcases exec_cwUnmap_cases hf with ⟨-, hexec⟩ | ⟨hval, -⟩ | ⟨hval, -⟩ | ⟨hval, -⟩
  · exact hexec
  all_goals exact absurd (hinv.symm.trans hval) (by decide)

/-- Settles O41: the endings are those of `exec_cwUnmap_cases`, each clause's hypotheses leaving one;
the registers of the last by `unmapped_toNat` and `unmappedFcs_getLsbD`. -/
theorem unmapChecksInOrder : Obligations.UnmapChecksInOrder := by
  refine ⟨by decide, fun s hf => ⟨fun ⟨_, hi⟩ => exec_cwUnmap_of_invalid hf hi, fun x hx => ?_⟩⟩
  have hvalid : anyInvalid s.w = false :=
    (anyInvalid_eq_false_iff s.w).mpr fun i => ⟨x i, hx i⟩
  have hcases := exec_cwUnmap_cases hf
  rw [wordIndex_of_romDec (hx 0), wordIndex_of_romDec (hx 9)] at hcases
  rcases hcases with ⟨hinv, -⟩ | ⟨-, hr, hexec⟩ | ⟨-, h0, h9, hodd, hexec⟩ |
    ⟨-, h0, h9, heven, hexec⟩
  · exact absurd (hvalid.symm.trans hinv) (by decide)
  · exact ⟨fun _ => hexec, fun _ _ _ => by omega, fun _ _ _ => by omega⟩
  · exact ⟨fun _ => by omega, fun _ _ _ => hexec, fun _ _ _ => by omega⟩
  · refine ⟨fun _ => by omega, fun _ _ _ => by omega, fun _ _ _ =>
      ⟨unmapped s.w, unmappedFcs s.w, hexec, unmapped_toNat (hx 9), ?_, fun i hlo hhi => ?_,
        unmappedFcs_getLsbD_fin s.w, ?_⟩⟩
    · simpa using unmapped_toNat (hx 0)
    · have hne9 : i ≠ 9 := by omega
      have hne0 : ¬(i = 0 ∧ 659 ≤ x i) := by omega
      rw [unmapped_toNat (hx i), if_neg hne9, if_neg hne0]
    · rw [unmappedFcs_getLsbD_ten, wordIndex_of_romDec (hx 0)]

end Sys2Proof.Proofs.Codeword
end

section
/-! SUPPORT. The encoder (spec/47_encode.md): commands one after the other against the run of their
pseudocode, the tests of a valid record, the ranges of the packed payload and of the codewords it
splits into. -/

namespace Sys2Proof.Proofs.Encoder

open Sys2Proof Sys2Proof.Machine

/-! ### Commands one after the other (rules R100, R101) -/

/-- A command that raised did not succeed (rules R284 to R286). -/
theorem succeeded_takeRaise (e : Raise) (s : State) : succeeded (takeRaise e s) = false := by
  cases e with
  | validation r => rfl
  | decoding r dt => rfl
  | fault f => cases f <;> exact Bool.and_false _

/-- A successful command ran its pseudocode to the last statement. -/
theorem command_succeeded {body : State → Run} {s t : State} (hf : s.status.fault = 0)
    (h : command body s = .next t) (ht : succeeded t = true) :
    body { s with status := .zero } = .ok t := by
  rcases command_cases body s with ⟨hne, -⟩ | ⟨-, ⟨u, hrun, hu⟩ | ⟨e, u, -, hu⟩⟩
  · exact absurd hf hne
  · cases h.symm.trans hu
    exact hrun
  · cases h.symm.trans hu
    exact absurd ht (by simp [succeeded_takeRaise])

/-- After a command that ended clean, a second command does what the rest of one pseudocode would:
it finds the `STATUS` that the opening clear would write. -/
theorem command_andThen {f g : State → Run} {s t : State} (hf : s.status.fault = 0)
    (h : command f s = .next t) (ht : t.status = .zero) :
    command (fun u => (f u).andThen g) s = command g t := by
  have hrun : f { s with status := .zero } = .ok t :=
    command_succeeded hf h (by rw [succeeded, ht]; rfl)
  have hclear : { t with status := .zero } = t := by rw [← ht]
  rw [command_of_fault_zero _ _ hf, command_of_fault_zero g t (by rw [ht]; rfl), hrun, hclear]
  rfl

/-! ### Valid records (rules R181, R182) -/

/-- The digit test of the meaning and the one of the statements speak of the same bytes. -/
theorem allDigits_eq_digitsBelow (f : RecField) : allDigits f = digitsBelow f.len.toNat f := by
  rw [Bool.eq_iff_iff]
  have hlen : f.len.toNat < 16 := f.len.isLt
  simp only [allDigits, RecField.bytes, digitsBelow, List.all_eq_true, isDigit]
  constructor
  · intro h j _
    by_cases hj : f.len.toNat ≤ j.val
    · simp [hj]
    · have := h f.ch[j] (List.mem_take_iff_getElem.mpr ⟨j.val, by simp; omega, by simp⟩)
      simpa [hj] using this
  · intro h b hb
    obtain ⟨i, hi, rfl⟩ := List.mem_take_iff_getElem.mp hb
    simp only [Vector.length_toList] at hi
    have := h ⟨i, by omega⟩ (List.mem_finRange _)
    have hnot : ¬ f.len.toNat ≤ i := by omega
    simpa [hnot] using this

theorem digitsExactly_eq (k : Nat) (f : RecField) :
    digitsExactly k f = (lenIs f k && digitsBelow k f) := by
  rw [digitsExactly, allDigits_eq_digitsBelow, lenIs]
  by_cases h : f.len.toNat = k <;> simp [h]

theorem present_eq (f : RecField) : f.present = !lenIs f 0 := by
  rw [RecField.present, lenIs, bne, Bool.not_inj_iff, Bool.eq_iff_iff, beq_iff_eq, decide_eq_true_iff]
  exact BitVec.toNat_inj.symm

/-- A test of rule R181 that reports when it fails, before the rest of the tests. -/
theorem test_eq_none_iff {c : Prop} [Decidable c] {e : ValReason} {x : Option ValReason} :
    (if c then some e else x) = none ↔ ¬ c ∧ x = none := by
  by_cases h : c <;> simp [h]

theorem digitOf_gt_four_iff (b : Byte) : 4 < digitOf b ↔ ¬ b.toNat ≤ 0x34 := by
  unfold digitOf
  omega

/-- The mailer's test asks for the digits of each length it may have. -/
theorem mailerDigits_eq (f : RecField) :
    (digitsExactly 6 f || digitsExactly 9 f) =
      ((lenIs f 6 || lenIs f 9) && digitsBelow f.len.toNat f) := by
  simp only [digitsExactly, allDigits_eq_digitsBelow, lenIs]
  exact (Bool.and_or_distrib_right ..).symm

/-- `PAY.VALIDATE` accepts exactly the valid records: its tests, one by one, are the conditions. -/
theorem validation_eq_none_iff (r : Record) : validation r = none ↔ validRecord r := by
  simp only [validation, validRecord, validityTests, test_eq_none_iff, List.forall_mem_cons]
  rw [mailerDigits_eq, allDigits_eq_digitsBelow r.ser]
  simp only [digitOf_gt_four_iff, present_eq, digitsExactly_eq]
  simp [or_iff_not_imp_left]

/-! ### The numbers in the fields of a valid record -/

theorem foldl_digits_lt (l : List Byte) (h : ∀ b ∈ l, isDigit b = true) (v : Nat) :
    l.foldl (fun v b => 10 * v + digitOf b) v < (v + 1) * 10 ^ l.length := by
  induction l generalizing v with
  | nil => simp
  | cons b rest ih =>
    have hb : digitOf b ≤ 9 := by
      have := h b List.mem_cons_self
      simp only [isDigit, decide_eq_true_eq] at this
      unfold digitOf
      omega
    calc (b :: rest).foldl (fun v b => 10 * v + digitOf b) v
        < (10 * v + digitOf b + 1) * 10 ^ rest.length :=
          ih (fun x hx => h x (List.mem_cons_of_mem b hx)) _
      _ ≤ ((v + 1) * 10) * 10 ^ rest.length := Nat.mul_le_mul_right _ (by omega)
      _ = (v + 1) * 10 ^ (b :: rest).length := by rw [List.length_cons, pow_succ']; ring

theorem fieldInt_lt {f : RecField} (h : digitsBelow f.len.toNat f = true) :
    fieldInt f < 10 ^ f.len.toNat := by
  rw [← allDigits_eq_digitsBelow, allDigits, List.all_eq_true] at h
  have hlen : f.bytes.length ≤ f.len.toNat := List.length_take_le ..
  calc fieldInt f < (0 + 1) * 10 ^ f.bytes.length := foldl_digits_lt f.bytes h 0
    _ ≤ 10 ^ f.len.toNat := by
      rw [Nat.zero_add, Nat.one_mul]
      exact Nat.pow_le_pow_right (by decide) hlen

theorem fieldInt_lt_of_lenIs {k : Nat} {f : RecField}
    (h : lenIs f k = true ∧ digitsBelow k f = true) : fieldInt f < 10 ^ k := by
  obtain ⟨hlen, hdigits⟩ := h
  obtain rfl := of_decide_eq_true hlen
  exact fieldInt_lt hdigits

theorem fieldInt_lt_of_present {k : Nat} {f : RecField} (hf : f.present = true)
    (h : lenIs f 0 = true ∨ (lenIs f k = true ∧ digitsBelow k f = true)) :
    fieldInt f < 10 ^ k := by
  rw [present_eq, Bool.not_eq_true'] at hf
  exact fieldInt_lt_of_lenIs (h.resolve_left (by rw [hf]; exact Bool.false_ne_true))

theorem digitOf_le_nine {k : Nat} {f : RecField} (h : digitsBelow k f = true) (j : Fin 15)
    (hj : j.val < k) : digitOf f.ch[j] ≤ 9 := by
  have hdigit := List.all_eq_true.mp h j (List.mem_finRange j)
  have hnot : ¬ k ≤ j.val := Nat.not_le_of_lt hj
  simp only [hnot, decide_false, Bool.false_or, Bool.and_eq_true, decide_eq_true_eq] at hdigit
  unfold digitOf
  omega

/-- The ranges of the numbers that the packer takes from a record (rule R180). -/
structure PackRanges (r : Record) : Prop where
  zip : r.zip.present = true → fieldInt r.zip < 10 ^ 5
  p4 : r.p4.present = true → fieldInt r.p4 < 10 ^ 4
  dp : r.dp.present = true → fieldInt r.dp < 10 ^ 2
  bid0 : digitOf r.bid.ch[0] ≤ 9
  bid1 : digitOf r.bid.ch[1] ≤ 4
  stc : fieldInt r.stc < 10 ^ 3
  mailer : (r.mid.len = 6 ∧ fieldInt r.mid < 10 ^ 6 ∧ fieldInt r.ser < 10 ^ 9) ∨
    (r.mid.len ≠ 6 ∧ fieldInt r.mid < 10 ^ 9 ∧ fieldInt r.ser < 10 ^ 6)

/-- Mailer and serial number share fifteen digits, in one of two splits. -/
theorem mailer_ranges {mid ser : RecField} (hlen : lenIs mid 6 = true ∨ lenIs mid 9 = true)
    (hmid : digitsBelow mid.len.toNat mid = true) (hsum : mid.len.toNat + ser.len.toNat = 15)
    (hser : digitsBelow ser.len.toNat ser = true) :
    (mid.len = 6 ∧ fieldInt mid < 10 ^ 6 ∧ fieldInt ser < 10 ^ 9) ∨
    (mid.len ≠ 6 ∧ fieldInt mid < 10 ^ 9 ∧ fieldInt ser < 10 ^ 6) := by
  have hm := fieldInt_lt hmid
  have hs := fieldInt_lt hser
  simp only [lenIs, decide_eq_true_eq] at hlen
  rcases hlen with h6 | h9
  · have hser9 : ser.len.toNat = 9 := by omega
    rw [h6] at hm
    rw [hser9] at hs
    exact .inl ⟨BitVec.eq_of_toNat_eq h6, hm, hs⟩
  · have hser6 : ser.len.toNat = 6 := by omega
    have hne : mid.len ≠ 6 := fun h => by rw [h] at h9; exact absurd h9 (by decide)
    rw [h9] at hm
    rw [hser6] at hs
    exact .inr ⟨hne, hm, hs⟩

theorem packRanges_of_valid {r : Record} (h : validRecord r) : PackRanges r := by
  simp only [validRecord, validityTests, List.forall_mem_cons, Bool.or_eq_true, Bool.and_eq_true,
    decide_eq_true_eq] at h
  obtain ⟨hzip, -, hp4, hdp, -, ⟨-, hbid⟩, hbid1, hstc, ⟨hmlen, hmid⟩, hsum, hser, -⟩ := h
  exact {
    zip := fun hf => fieldInt_lt_of_present hf hzip
    p4 := fun hf => fieldInt_lt_of_present hf hp4
    dp := fun hf => fieldInt_lt_of_present hf hdp
    bid0 := digitOf_le_nine hbid 0 (by decide)
    bid1 := Nat.not_lt.mp fun hgt => (digitOf_gt_four_iff _).mp hgt hbid1
    stc := fieldInt_lt_of_lenIs hstc
    mailer := mailer_ranges hmlen hmid hsum hser }

/-! ### Runs that write `N` alone -/

/-- The run ends well, and of the registers of `s` it has changed `N` alone, to at most `B`. -/
def WritesN (B : Nat) (s : State) (r : Run) : Prop :=
  ∃ n : Limbs, r = .ok { s with n := n } ∧ val n ≤ B

theorem WritesN.andThen {B C : Nat} {s : State} {r : Run} {f : State → Run} (h : WritesN B s r)
    (hf : ∀ n, val n ≤ B → WritesN C { s with n := n } (f { s with n := n })) :
    WritesN C s (r.andThen f) := by
  obtain ⟨n, rfl, hn⟩ := h
  exact hf n hn

theorem writesN_bnClr (s : State) : WritesN 0 s (bnClr s) :=
  ⟨_, rfl, val_zero.le⟩

theorem writesN_bnLdlo {B v : Nat} (s : State) (hv : v ≤ B) (hB : B < 2 ^ 22) :
    WritesN B s (bnLdlo v s) := by
  rcases bnLdlo_cases v s with ⟨-, n, hrun, hval, -⟩ | ⟨hge, -⟩
  · exact ⟨n, hrun, hval ▸ hv⟩
  · omega

theorem writesN_bnMuladd {B C m a : Nat} {s : State} (hs : val s.n ≤ B) (hC : B * m + a ≤ C)
    (htop : C < 2 ^ 110) : WritesN C s (bnMuladd m a s) := by
  have hle : val s.n * m + a ≤ C := (Nat.add_le_add_right (Nat.mul_le_mul_right m hs) a).trans hC
  rcases bnMuladd_cases m a s with ⟨-, n, hrun, hval⟩ | ⟨hge, -⟩
  · exact ⟨n, hrun, hval ▸ hle⟩
  · omega

theorem writesN_bnAdd {B C k : Nat} {s : State} (hs : val s.n ≤ B) (hC : B + k ≤ C)
    (htop : C < 2 ^ 110) : WritesN C s (bnAdd k s) := by
  rcases bnAdd_cases k s with ⟨-, -, n, hrun, hval⟩ | ⟨hout, -⟩
  · exact ⟨n, hrun, by omega⟩
  · exact absurd ⟨by omega, by omega⟩ hout

theorem writesN_whenPresent {B : Nat} {f : RecField} {p : State → Run} {s : State}
    (hs : val s.n ≤ B) (hp : f.present = true → WritesN B s (p s)) :
    WritesN B s (whenPresent f p s) := by
  unfold whenPresent
  split
  case isTrue hf => exact hp hf
  case isFalse => exact ⟨s.n, rfl, hs⟩

/-! ### `PAY.PACK` of a valid record (rules R180, R183) -/

theorem marker_le (r : Record) : marker r ≤ 1000100001 := by
  unfold marker
  split_ifs <;> omega

/-- The routing value is at most `lastRouting`, whatever the shape. -/
theorem packRouting_writesN {r : Record} (h : PackRanges r) (s : State) :
    WritesN lastRouting s (packRouting r s) := by
  have hm := marker_le r
  refine (writesN_bnClr s).andThen fun n0 h0 => ?_
  refine WritesN.andThen (B := 99999)
    (writesN_whenPresent (by exact h0.trans (by decide)) fun hf => ?_) fun n1 h1 => ?_
  · exact writesN_bnLdlo _ (Nat.le_of_lt_succ (h.zip hf)) (by decide)
  refine WritesN.andThen (B := 999999999)
    (writesN_whenPresent (by exact h1.trans (by decide)) fun hf => ?_) fun n2 h2 => ?_
  · have := h.p4 hf
    exact writesN_bnMuladd h1 (by omega) (by decide)
  refine WritesN.andThen (B := 99999999999)
    (writesN_whenPresent (by exact h2.trans (by decide)) fun hf => ?_) fun n3 h3 => ?_
  · have := h.dp hf
    exact writesN_bnMuladd h2 (by omega) (by decide)
  · exact writesN_bnAdd h3 (by unfold lastRouting; omega) (by decide)

/-- Mailer and serial number append fifteen decimal digits. -/
theorem packMailer_writesN {B C : Nat} {r : Record} (h : PackRanges r) {s : State}
    (hs : val s.n ≤ B) (hC : (B + 1) * 10 ^ 15 ≤ C + 1) (htop : C < 2 ^ 110) :
    WritesN C s (packMailer r s) := by
  unfold packMailer
  rcases h.mailer with ⟨h6, hmid, hser⟩ | ⟨h6, hmid, hser⟩
  · rw [if_pos h6]
    refine (writesN_bnMuladd (C := (B + 1) * 10 ^ 6 - 1) hs (by omega) (by omega)).andThen
      fun n1 h1 => ?_
    refine (writesN_bnMuladd (C := ((B + 1) * 10 ^ 6 - 1) * 10 ^ 5) h1 (by omega) (by omega)).andThen
      fun n2 h2 => ?_
    exact writesN_bnMuladd h2 (by omega) (by omega)
  · rw [if_neg h6]
    refine (writesN_bnMuladd (C := B * 10 ^ 4) hs (by omega) (by omega)).andThen fun n1 h1 => ?_
    refine (writesN_bnMuladd (C := (B + 1) * 10 ^ 9 - 1) h1 (by omega) (by omega)).andThen
      fun n2 h2 => ?_
    exact writesN_bnMuladd h2 (by omega) (by omega)

/-- The tracking digits multiply the routing value by `5 * 10 ^ 19` and fill in below. -/
theorem packTracking_writesN {r : Record} (h : PackRanges r) {s : State}
    (hs : val s.n ≤ lastRouting) :
    WritesN ((lastRouting + 1) * (5 * 10 ^ 19) - 1) s (packTracking r s) := by
  have hbid0 := h.bid0
  have hbid1 := h.bid1
  have hstc := h.stc
  have hlast : lastRouting = 101000100000 := rfl
  refine (writesN_bnMuladd (C := (lastRouting + 1) * 10 - 1) hs (by omega) (by omega)).andThen
    fun n1 h1 => ?_
  refine (writesN_bnMuladd (C := (lastRouting + 1) * 50 - 1) h1 (by omega) (by omega)).andThen
    fun n2 h2 => ?_
  refine (writesN_bnMuladd (C := (lastRouting + 1) * 50000 - 1) h2 (by omega) (by omega)).andThen
    fun n3 h3 => ?_
  exact packMailer_writesN h h3 (by norm_num [hlast]) (by norm_num [hlast])

/-- `PAY.PACK` of a valid record leaves a payload that ten codewords carry (rules R183, R204). -/
theorem payPack_of_valid {s : State} (h : validRecord s.record) :
    ∃ n : Limbs, payPack s = .ok { s with n := n } ∧ val n < splitBound := by
  have hranges := packRanges_of_valid h
  have hvalidate : payValidate s = .ok s := by
    rcases payValidate_cases s with ⟨-, hrun⟩ | ⟨e, he, -⟩
    · exact hrun
    · rw [(validation_eq_none_iff _).mpr h] at he
      cases he
  obtain ⟨n, hrun, hn⟩ := (packRouting_writesN hranges s).andThen
    (f := fun s => packTracking s.record s) fun _ hval => packTracking_writesN hranges hval
  refine ⟨n, ?_, hn.trans_lt (by decide)⟩
  rw [payPack, hvalidate, Run.andThen_ok, hrun]

/-- `PAY.PACK` of an invalid record reports the failure before it writes a register. -/
theorem payPack_of_invalid {s : State} (h : ¬ validRecord s.record) :
    ∃ e, payPack s = .raised (.validation e) s := by
  rcases payValidate_cases s with ⟨hnone, -⟩ | ⟨e, -, hrun⟩
  · exact absurd ((validation_eq_none_iff _).mp hnone) h
  · exact ⟨e, by rw [payPack, hrun, Run.andThen_raised]⟩

/-! ### `CW.SPLIT` of a payload that ten codewords carry (rule R204) -/

theorem set_getElem_same (cw : Codewords) (i : Fin 10) (x : BitVec 11) : (cw.set i x)[i] = x :=
  Vector.getElem_set_self i.isLt

theorem set_getElem_other (cw : Codewords) {i j : Fin 10} (x : BitVec 11) (h : j ≠ i) :
    (cw.set i x)[j] = cw[j] :=
  Vector.getElem_set_ne i.isLt j.isLt fun hij => h (Fin.ext hij.symm)

theorem remainder_toNat_le (v : Nat) : (BitVec.ofNat 11 (v % 1365)).toNat ≤ 1364 := by
  rw [BitVec.toNat_ofNat]
  exact (Nat.mod_le ..).trans (Nat.le_of_lt_succ (Nat.mod_lt v (by decide)))

/-- The loop of the split: every turn divides `N`, and the codewords it writes are indices. -/
theorem splitLoop_spec (l : List (Fin 10)) (s : State) :
    ∃ (n : Limbs) (res : BitVec 32) (cw : Codewords),
      forEach l takeCodeword s = .ok { s with n := n, res := res, cw := cw } ∧
      val n = val s.n / 1365 ^ l.length ∧
      ∀ j : Fin 10, cw[j].toNat ≤ 1364 ∨ (j ∉ l ∧ cw[j] = s.cw[j]) := by
  induction l generalizing s with
  | nil => exact ⟨s.n, s.res, s.cw, rfl, by simp, fun j => .inr ⟨by simp, rfl⟩⟩
  | cons i rest ih =>
    obtain ⟨n0, hn0, hturn⟩ := takeCodeword_eq i s
    obtain ⟨n, res, cw, hrun, hn, hcw⟩ := ih { s with
      n := n0, res := BitVec.ofNat 32 (val s.n % 1365)
      cw := s.cw.set i (BitVec.ofNat 11 (val s.n % 1365)) }
    refine ⟨n, res, cw, ?_, ?_, fun j => ?_⟩
    · rw [forEach_cons, hturn, Run.andThen_ok, hrun]
    · calc val n = val n0 / 1365 ^ rest.length := hn
        _ = val s.n / 1365 ^ (i :: rest).length := by
          rw [hn0, Nat.div_div_eq_div_mul, List.length_cons, pow_succ']
    · rcases hcw j with hle | ⟨hj, heq⟩
      · exact .inl hle
      · by_cases hij : j = i
        · subst hij
          rw [heq, set_getElem_same]
          exact .inl (remainder_toNat_le _)
        · exact .inr ⟨List.not_mem_cons_of_ne_of_not_mem hij hj,
            heq.trans (set_getElem_other s.cw _ hij)⟩

theorem limbsVal_drop_le (l : List Limb) (k : Nat) : limbsVal (l.drop k) ≤ limbsVal l := by
  induction l generalizing k with
  | nil => simp
  | cons x rest ih =>
    cases k with
    | zero => exact le_rfl
    | succ k => exact (ih k).trans (by rw [limbsVal_cons]; exact Nat.le_add_left ..)

/-- The residue is the value of the two least significant limbs. -/
theorem residue_le_val (n : Limbs) : residue n ≤ val n := by
  have hdrop : n.toList.drop 8 = [n[8], n[9]] := by
    refine List.ext_getElem (by simp) fun i _ hi => ?_
    have hcases : i = 0 ∨ i = 1 := Nat.le_one_iff_eq_zero_or_eq_one.mp (Nat.le_of_lt_succ hi)
    rcases hcases with rfl | rfl <;> simp
  calc residue n = limbsVal [n[8], n[9]] := by
        rw [residue, ← Nat.shiftLeft_add_eq_or_of_lt n[9].isLt, Nat.shiftLeft_eq]
        simp [limbsVal_cons]
    _ ≤ val n := hdrop ▸ limbsVal_drop_le n.toList 8

theorem shifted_remainder_le (v : Nat) :
    ((BitVec.ofNat 32 (v % 636) <<< 1).setWidth 11).toNat ≤ 1364 := by
  have hlt : v % 636 < 636 := Nat.mod_lt _ (by decide)
  simp only [BitVec.toNat_setWidth, BitVec.toNat_shiftLeft, BitVec.toNat_ofNat, Nat.shiftLeft_eq]
  omega

theorem offset_residue_le {r : Nat} (hr : r ≤ 658) (bit : Bool) :
    (BitVec.ofNat 11 (if bit then r + 659 else r)).toNat ≤ 1364 := by
  rw [BitVec.toNat_ofNat]
  cases bit
  · exact (Nat.mod_le ..).trans (hr.trans (by decide))
  · exact (Nat.mod_le ..).trans ((Nat.add_le_add_right hr 659).trans (by decide))

/-- The loop of the split leaves the first and the last codeword to the statements around it. -/
theorem not_looped :
    ∀ j : Fin 10, j ∉ ([8, 7, 6, 5, 4, 3, 2, 1] : List (Fin 10)) → j = 0 ∨ j = 9 := by
  decide

/-- `CW.SPLIT` below the bound ends well, and `CW.MAP` accepts every codeword it leaves. -/
theorem cwSplit_of_lt {s : State} (h : val s.n < splitBound) :
    ∃ (n : Limbs) (res : BitVec 32) (cw : Codewords),
      cwSplit s = .ok { s with n := n, res := res, cw := cw } ∧
      ∀ j : Fin 10, cw[j].toNat ≤ 1364 := by
  obtain ⟨-, n0, hdiv, hn0⟩ | ⟨h0, -⟩ := bnDivmod_cases 636 s
  case inr => cases h0
  obtain ⟨n, res, cw, hloop, hn, hcw⟩ := splitLoop_spec [8, 7, 6, 5, 4, 3, 2, 1] { s with
    n := n0, res := BitVec.ofNat 32 (val s.n % 636)
    cw := s.cw.set 9 ((BitVec.ofNat 32 (val s.n % 636) <<< 1).setWidth 11) }
  have hres : residue n ≤ 658 := by
    have hval : val n = val s.n / (636 * 1365 ^ 8) := by
      rw [← Nat.div_div_eq_div_mul, ← hn0]
      exact hn
    have hlt : val s.n / (636 * 1365 ^ 8) < 659 :=
      Nat.div_lt_of_lt_mul (h.trans_eq (by decide))
    exact (residue_le_val n).trans (hval ▸ Nat.le_of_lt_succ hlt)
  refine ⟨n, res, cw.set 0 (BitVec.ofNat 11
    (if s.fcs.getLsbD 10 then residue n + 659 else residue n)), ?_, fun j => ?_⟩
  · rw [cwSplit, hdiv, Run.andThen_ok, hloop, Run.andThen_ok]
    exact if_neg (Nat.not_lt.mpr hres)
  · by_cases hj0 : j = 0
    · subst hj0
      exact (congrArg BitVec.toNat (set_getElem_same cw 0 _)).trans_le (offset_residue_le hres _)
    · refine (congrArg BitVec.toNat (set_getElem_other cw _ hj0)).trans_le ?_
      rcases hcw j with hle | ⟨hj, heq⟩
      · exact hle
      · obtain rfl := (not_looped j hj).resolve_left hj0
        rw [heq]
        exact (congrArg BitVec.toNat (set_getElem_same s.cw 9 _)).trans_le (shifted_remainder_le _)

/-! ### The five commands and `ENCODE` (rules R220, R221) -/

theorem exec_payPack_of_valid {s : State} (hf : s.status.fault = 0) (h : validRecord s.record) :
    ∃ n : Limbs, exec .payPack s = .next { s with status := .zero, n := n } ∧
      val n < splitBound := by
  obtain ⟨n, hrun, hn⟩ := payPack_of_valid (s := { s with status := .zero }) h
  exact ⟨n, command_ok (body := payPack) hf hrun, hn⟩

theorem exec_cwSplit_of_lt {s : State} (hf : s.status.fault = 0) (h : val s.n < splitBound) :
    ∃ (n : Limbs) (res : BitVec 32) (cw : Codewords),
      exec .cwSplit s = .next { s with status := .zero, n := n, res := res, cw := cw } ∧
      ∀ j : Fin 10, cw[j].toNat ≤ 1364 := by
  obtain ⟨n, res, cw, hrun, hcw⟩ := cwSplit_of_lt (s := { s with status := .zero }) h
  exact ⟨n, res, cw, command_ok (body := cwSplit) hf hrun, hcw⟩

theorem exec_symEmit {s : State} (hf : s.status.fault = 0) :
    exec .symEmit s =
      .next { s with status := .zero, sym := bufferOf (render layout s.w), len := 65 } :=
  command_ok (body := symEmit layout) hf rfl

/-- When the first four commands end clean, `ENCODE` does what `SYM.EMIT` does after them. -/
theorem exec_encodeRec_eq_symEmit {s a b c d : State} (hf : s.status.fault = 0)
    (ha : exec .payPack s = .next a) (hb : exec .fcsCalc a = .next b)
    (hc : exec .cwSplit b = .next c) (hd : exec .cwMap c = .next d)
    (haz : a.status = .zero) (hbz : b.status = .zero) (hcz : c.status = .zero)
    (hdz : d.status = .zero) : exec .encodeRec s = exec .symEmit d := by
  have clean {u : State} (h : u.status = .zero) : u.status.fault = 0 := by rw [h]; rfl
  calc exec .encodeRec s
      = command (fun u => (fcsCalc u).andThen fun u => (cwSplit u).andThen fun u =>
          (cwMap u).andThen (symEmit layout)) a := command_andThen hf ha haz
    _ = command (fun u => (cwSplit u).andThen fun u => (cwMap u).andThen (symEmit layout)) b :=
        command_andThen (clean haz) hb hbz
    _ = command (fun u => (cwMap u).andThen (symEmit layout)) c :=
        command_andThen (clean hbz) hc hcz
    _ = exec .symEmit d := command_andThen (clean hcz) hd hdz

/-- Settles O44: the four clean states by the rules of the four commands, the end of `ENCODE` by
`exec_encodeRec_eq_symEmit`. -/
theorem encodeIsItsFiveCommands : Obligations.EncodeIsItsFiveCommands := by
  refine fun s hf => ⟨fun hvalid => ?_, fun hinvalid => ?_⟩
  · obtain ⟨n, hpack, hn⟩ := exec_payPack_of_valid hf hvalid
    have hfcs := Fcs.exec_fcsCalc (s := { s with status := .zero, n := n }) rfl
    obtain ⟨m, res, cw, hsplit, hcw⟩ := exec_cwSplit_of_lt
      (s := { s with status := .zero, n := n, fcs := fcsOf n }) rfl hn
    have hmap := Codeword.exec_cwMap_of_le
      (s := { s with status := .zero, n := m, fcs := fcsOf n, res := res, cw := cw }) rfl hcw
    have hemit := exec_symEmit (s := { s with
      status := .zero, n := m, fcs := fcsOf n, res := res, cw := cw
      w := Vector.ofFn fun i => mapWord cw (fcsOf n) i }) rfl
    have hencode := exec_encodeRec_eq_symEmit hf hpack hfcs hsplit hmap rfl rfl rfl rfl
    exact ⟨_, _, _, _, _, hpack, hfcs, hsplit, hmap, hemit, hencode.trans hemit, rfl⟩
  · obtain ⟨e, hrun⟩ := payPack_of_invalid (s := { s with status := .zero }) hinvalid
    have hencode : encodeRun layout { s with status := .zero } =
        .raised (.validation e) { s with status := .zero } := by
      rw [encodeRun, hrun, Run.andThen_raised]
    exact (command_raised (body := encodeRun layout) hf hencode).trans
      (command_raised (body := payPack) hf hrun).symm

/-! ### The buffer after `ENCODE` (rule R223) -/

/-- A run of the encoder that ends well has ended with `SYM.EMIT`. -/
theorem encodeRun_eq_ok {L : Layout} {s t : State} (h : encodeRun L s = .ok t) :
    ∃ d, symEmit L d = .ok t := by
  obtain ⟨a, -, h⟩ := Run.andThen_eq_ok.mp h
  obtain ⟨b, -, h⟩ := Run.andThen_eq_ok.mp h
  obtain ⟨c, -, h⟩ := Run.andThen_eq_ok.mp h
  obtain ⟨d, -, h⟩ := Run.andThen_eq_ok.mp h
  exact ⟨d, h⟩

theorem isSym_symbolAt (L : Layout) (w : Words) (p : Fin 65) : isSym (symbolAt L w p) = true :=
  isSym_symOf ..

/-- What `SYM.EMIT` leaves in the buffer (rule R165). -/
theorem symEmit_shape {L : Layout} {s t : State} (h : symEmit L s = .ok t) :
    t.len = 65 ∧ ∀ p : Fin 65, isSym t.sym[p.val] = true := by
  cases h
  refine ⟨rfl, fun p => ?_⟩
  rw [bufferOf_getElem _ _ p.isLt, render_getElem]
  exact isSym_symbolAt L s.w p

/-- Settles O46: a successful `ENCODE` ran to its `SYM.EMIT`. -/
theorem encodeOutputShape : Obligations.EncodeOutputShape := by
  intro s t hf hexec hsucceeded
  have hrun := command_succeeded (body := encodeRun layout) hf hexec hsucceeded
  obtain ⟨d, hemit⟩ := encodeRun_eq_ok hrun
  obtain ⟨hlen, hsym⟩ := symEmit_shape hemit
  exact ⟨hlen, fun p => (isSym_iff _).mp (hsym p)⟩

end Sys2Proof.Proofs.Encoder
end

section
/-! SUPPORT. Decoder and encoder undo each other (spec/30_encoding.md rules R81 to R85). -/

namespace Sys2Proof.Proofs.RoundTrip

open Sys2Proof

set_option Elab.async false

/-- The format of a command's opcode row (rule R84). -/
def formatOf : Instr → Format
  | .bnLdlo _ | .bnAdd _ | .tblEnc _ | .tblDec _ => .A
  | .bnMuladd _ _ => .MA
  | .bnDivmod _ => .M
  | .nop | .bnClr | .bnIszero | .fcsCalc | .fcsChk | .cwSplit | .cwMap | .cwUnmap | .cwJoin
  | .symEmit | .symParse | .symFlip | .payValidate | .payPack | .payUnpack | .encodeRec
  | .decodeSym | .decStrict | .repLen | .repFlip | .decOrient => .Z

/-- The word of every well-formed command holds its opcode and operands. -/
theorem encode_fields (i : Instr) : Laws.EncodeFields.Statement i := by
  cases i with
  | nop => exact Laws.EncodeFields.nop
  | bnClr => exact Laws.EncodeFields.bnClr
  | bnLdlo v => exact Laws.EncodeFields.bnLdlo v
  | bnIszero => exact Laws.EncodeFields.bnIszero
  | bnAdd k => exact Laws.EncodeFields.bnAdd k
  | bnMuladd m a => exact Laws.EncodeFields.bnMuladd m a
  | bnDivmod d => exact Laws.EncodeFields.bnDivmod d
  | fcsCalc => exact Laws.EncodeFields.fcsCalc
  | fcsChk => exact Laws.EncodeFields.fcsChk
  | tblEnc i => exact Laws.EncodeFields.tblEnc i
  | tblDec w => exact Laws.EncodeFields.tblDec w
  | cwSplit => exact Laws.EncodeFields.cwSplit
  | cwMap => exact Laws.EncodeFields.cwMap
  | cwUnmap => exact Laws.EncodeFields.cwUnmap
  | cwJoin => exact Laws.EncodeFields.cwJoin
  | symEmit => exact Laws.EncodeFields.symEmit
  | symParse => exact Laws.EncodeFields.symParse
  | symFlip => exact Laws.EncodeFields.symFlip
  | payValidate => exact Laws.EncodeFields.payValidate
  | payPack => exact Laws.EncodeFields.payPack
  | payUnpack => exact Laws.EncodeFields.payUnpack
  | encodeRec => exact Laws.EncodeFields.encodeRec
  | decodeSym => exact Laws.EncodeFields.decodeSym
  | decStrict => exact Laws.EncodeFields.decStrict
  | repLen => exact Laws.EncodeFields.repLen
  | repFlip => exact Laws.EncodeFields.repFlip
  | decOrient => exact Laws.EncodeFields.decOrient

/-- The opcode map reads a well-formed command back from its opcode and operands. -/
theorem opcodeRow_of_wellFormed {i : Instr} (h : wellFormed i = true) :
    opcodeRow (opcodeOf i) (mOf i) (aOf i) = some (formatOf i, i) := by
  cases i with
  | bnAdd k =>
    have hk : -2 ^ 31 ≤ k ∧ k < 2 ^ 31 := by simpa [wellFormed, fitsSignedA] using h
    exact congrArg (fun j => some (Format.A, Instr.bnAdd j)) (BigNum.sext32_ofInt hk.1 hk.2)
  | _ => rfl

/-- The fields that a command's format does not use are 0 in its word. -/
theorem unused_fields_zero (i : Instr) :
    (formatOf i = .Z ∨ formatOf i = .A → mOf i = 0) ∧
      (formatOf i = .Z ∨ formatOf i = .M → aOf i = 0) := by
  cases i <;> simp [formatOf, mOf, aOf]

/-- Settles O1: the fields of the word are the command's, and the opcode row of those fields is the
command again. -/
theorem decodeOfEncodeIsTheCommand : Obligations.DecodeOfEncodeIsTheCommand := by
  intro i hwf
  obtain ⟨hop, hz, hm, ha⟩ := encode_fields i hwf
  obtain ⟨hm0, ha0⟩ := unused_fields_zero i
  refine (Encoding.decode_eq_some_iff _ _).mpr ⟨formatOf i, ?_, ?_⟩
  · rw [hop, hm, ha, opcodeRow_of_wellFormed hwf]
  · rw [Encoding.zerosHold_iff, hz, hm, ha]
    exact ⟨rfl, ite_eq_right_iff.mpr hm0, ite_eq_right_iff.mpr ha0⟩

/-- Reading field `a` as signed and storing it again gives the field back (rules R11, R83). -/
theorem ofInt_sext32 {a : Nat} (ha : a < 2 ^ 32) : (BitVec.ofInt 32 (sext32 a)).toNat = a := by
  rw [BitVec.toNat_ofInt]
  unfold sext32
  split <;> omega

theorem fitsSignedA_sext32 {a : Nat} (ha : a < 2 ^ 32) : fitsSignedA (sext32 a) = true := by
  rw [fitsSignedA, decide_eq_true_eq]
  unfold sext32
  split <;> omega

/-- What the opcode map answers for fields that fit: a well-formed command of that opcode whose
operands are the fields that its format uses, the others 0. -/
theorem opcodeRow_fields {op m a : Nat} {f : Format} {i : Instr} (hm : m < 2 ^ 20)
    (ha : a < 2 ^ 32) (h : opcodeRow op m a = some (f, i)) :
    wellFormed i = true ∧ mOf i = (if f = .Z ∨ f = .A then 0 else m) ∧
      aOf i = (if f = .Z ∨ f = .M then 0 else a) := by
  have hA : fitsA a = true := Laws.EncodeFields.fitsA_iff.mpr ha
  have hM : fitsM m = true := Laws.EncodeFields.fitsM_iff.mpr hm
  unfold opcodeRow at h
  split at h <;> cases h <;>
    simp [wellFormed, mOf, aOf, hA, hM, ofInt_sext32 ha, fitsSignedA_sext32 ha]

/-- Settles O2: the word and the command's word agree in all four fields. -/
theorem encodeOfDecodeIsTheWord : Obligations.EncodeOfDecodeIsTheWord := by
  intro w i h
  obtain ⟨f, hrow, hzeros⟩ := (Encoding.decode_eq_some_iff w i).mp h
  obtain ⟨hwf, hmOf, haOf⟩ := opcodeRow_fields (BitVec.isLt _) (BitVec.isLt _) hrow
  obtain ⟨hz, hm0, ha0⟩ := (Encoding.zerosHold_iff f w).mp hzeros
  obtain ⟨hop, hzi, hm, ha⟩ := encode_fields i hwf
  refine ⟨hwf, (Encoding.word_eq_iff_fields _ _).mpr ⟨?_, ?_, ?_, ?_⟩⟩
  · rw [hop, (Encoding.opcodeRow_sound hrow).1]
  · rw [hzi, hz]
  · rw [hm, hmOf]
    split_ifs with hf
    · rwa [if_pos hf, eq_comm] at hm0
    · rfl
  · rw [ha, haOf]
    split_ifs with hf
    · rwa [if_pos hf, eq_comm] at ha0
    · rfl

/-- Settles O4: each word's fields are read off. -/
theorem programWordsDecode : Obligations.ProgramWordsDecode := by
  refine ⟨?_, ?_, ?_, ?_, ?_, ?_, ?_, ?_, ?_, ?_⟩ <;> decide

end Sys2Proof.Proofs.RoundTrip
end

section
/-! SUPPORT. The host port (spec/10_state.md rules R38 to R40): what an index names, what a read and
a write of it do, and the step that performs them. -/

namespace Sys2Proof.Proofs.Port

open Sys2Proof Sys2Proof.Machine

set_option Elab.async false

/-! ### The host's view of an index (rule R39) -/

/-- The value that a list of map rows gives at index `x`: the first row that has the index. -/
def rowsValue (x : Nat) : List (Nat × List Nat) → Nat
  | [] => 0
  | row :: rest =>
    if row.1 ≤ x ∧ x < row.1 + row.2.length then row.2.getD (x - row.1) 0 else rowsValue x rest

/-- The row has the index. -/
def covers (row : Nat × List Nat) (x : Nat) : Prop := row.1 ≤ x ∧ x < row.1 + row.2.length

theorem rowsValue_skip {x : Nat} {row : Nat × List Nat} {rest : List (Nat × List Nat)}
    (h : ¬ covers row x) : rowsValue x (row :: rest) = rowsValue x rest := if_neg h

theorem rowsValue_take {x : Nat} {row : Nat × List Nat} {rest : List (Nat × List Nat)}
    (h : covers row x) : rowsValue x (row :: rest) = row.2.getD (x - row.1) 0 := if_pos h

theorem hostValue_eq_rowsValue (s : State) (x : Nat) :
    hostValue s x = rowsValue x (registerRows s) := by
  unfold hostValue
  induction registerRows s with
  | nil => rfl
  | cons row rest ih =>
    by_cases h : row.1 ≤ x ∧ x < row.1 + row.2.length
    · rw [rowsValue, if_pos h, List.find?_cons_of_pos (by simpa using h)]
    · rw [rowsValue, if_neg h, List.find?_cons_of_neg (by simpa using h), ih]

/-- The place of a field's block in the record part of the map. -/
def blockOf : FieldName → Nat
  | .bid => 0
  | .stc => 1
  | .mid => 2
  | .ser => 3
  | .zip => 4
  | .p4 => 5
  | .dp => 6

theorem fieldOfBlock_blockOf (f : FieldName) : fieldOfBlock (blockOf f) = f := by cases f <;> rfl

theorem blockOf_fieldOfBlock {b : Nat} (h : b < 7) : blockOf (fieldOfBlock b) = b := by
  interval_cases b <;> rfl

theorem fieldNumbers_length (f : RecField) : (fieldNumbers f).length = 16 := by
  simp [fieldNumbers]

/-- The record part of the map: sixteen elements a field. -/
theorem hostValue_record (s : State) (f : FieldName) {x k : Nat} (hk : k < 16)
    (hx : x = 0x200 + 16 * blockOf f + k) :
    hostValue s x = (fieldNumbers (s.record.field f)).getD k 0 := by
  rw [hostValue_eq_rowsValue, registerRows]
  cases f <;> simp only [blockOf] at hx <;> repeat rw [rowsValue_skip (by
    simp only [covers, List.length_cons, List.length_nil, List.length_map, Vector.length_toList,
      fieldNumbers_length]
    omega)]
  all_goals
    rw [rowsValue_take (by simp only [covers, fieldNumbers_length]; omega)]
    exact congrArg (fun j => List.getD _ j 0) (by omega)

theorem getD_fieldNumbers (f : RecField) {k : Nat} (hk : k < 15) :
    (fieldNumbers f).getD (k + 1) 0 = f.ch[k].toNat := by
  simp [fieldNumbers, hk]

/-- `STATUS` as the host reads it, as a number (rule R23). -/
theorem toNat_append {m n : Nat} (x : BitVec m) (y : BitVec n) :
    (x ++ y).toNat = x.toNat * 2 ^ n + y.toNat := by
  rw [BitVec.toNat_append, ← Nat.shiftLeft_add_eq_or_of_lt y.isLt, Nat.shiftLeft_eq]

theorem statusNumber_eq (t : Status) : statusNumber t = t.word.toNat := by
  simp only [statusNumber, Status.word, toNat_append, BitVec.toNat_ofNat]
  omega

/-- The index that names an element (rule R39); no index names `unmapped`. -/
def elemIndex : RegElem → Nat
  | .cmd => 0x000
  | .status => 0x001
  | .res => 0x002
  | .fcs => 0x003
  | .fcsr => 0x004
  | .len => 0x005
  | .rpos => 0x006
  | .repinfo => 0x007
  | .diff => 0x008
  | .n i => 0x010 + i
  | .cw i => 0x020 + i
  | .w i => 0x030 + i
  | .track j => 0x040 + j
  | .route j => 0x060 + j
  | .sym p => 0x100 + p
  | .sug p => 0x180 + p
  | .recLen f => 0x200 + 16 * blockOf f
  | .recCh f k => 0x200 + 16 * blockOf f + (k + 1)
  | .unmapped => 0x400

/-- The indices of the map of rule R39. -/
abbrev Mapped (x : Nat) : Prop :=
  x ≤ 0x008 ∨ (0x010 ≤ x ∧ x < 0x01A) ∨ (0x020 ≤ x ∧ x < 0x02A) ∨ (0x030 ≤ x ∧ x < 0x03A) ∨
    (0x040 ≤ x ∧ x < 0x054) ∨ (0x060 ≤ x ∧ x < 0x06B) ∨ (0x100 ≤ x ∧ x < 0x142) ∨
    (0x180 ≤ x ∧ x < 0x1C1) ∨ (0x200 ≤ x ∧ x < 0x270)

theorem elemIndex_recElem {x : Nat} (h : x < 0x070) : elemIndex (recElem x) = 0x200 + x := by
  have hblock : ∀ b < 7, blockOf (fieldOfBlock b) = b := by decide
  have hb := hblock (x / 16) (by omega)
  unfold recElem
  split_ifs <;> simp only [elemIndex, hb] <;> omega

/-- An index `x` names `e`: nothing outside the map, else the element with that index. -/
def Names (x : Nat) (e : RegElem) : Prop := (¬ Mapped x ∧ e = .unmapped) ∨ elemIndex e = x

theorem dite_elim {α : Type} {P : α → Prop} {c : Prop} [Decidable c] {a : c → α} {b : ¬ c → α}
    (pos : ∀ h, P (a h)) (neg : ∀ h, P (b h)) : P (dite c a b) := by
  split
  · exact pos _
  · exact neg _

theorem names_regElem (idx : BitVec 10) : Names idx.toNat (regElem idx) := by
  unfold regElem
  iterate 9 refine iteInduction (fun h => Or.inr h.symm) fun _ => ?_
  iterate 7 refine dite_elim (fun h => Or.inr (Nat.add_sub_of_le h.1)) fun _ => ?_
  refine iteInduction (fun h => Or.inr ?_) fun _ => Or.inl ⟨by omega, rfl⟩
  rw [elemIndex_recElem (by omega)]
  omega

theorem elemIndex_regElem {idx : BitVec 10} (h : regElem idx ≠ .unmapped) :
    elemIndex (regElem idx) = idx.toNat :=
  (names_regElem idx).resolve_left fun hc => h hc.2

/-- Two indices that name one element are equal, unless they name none. -/
theorem regElem_injective {idx other : BitVec 10} (h : regElem idx ≠ .unmapped)
    (heq : regElem idx = regElem other) : idx = other := by
  have hi := elemIndex_regElem h
  rw [heq, elemIndex_regElem (heq ▸ h)] at hi
  exact BitVec.eq_of_toNat_eq hi.symm

/-- An entry of a register array, as the map lists it and as a read widens it. -/
theorem getD_map_toNat {w n : Nat} (v : Vector (BitVec w) n) (i : Fin n) (hw : w ≤ 65) :
    (v.toList.map BitVec.toNat).getD i 0 = (v[i].setWidth 65).toNat := by
  rw [BitVec.toNat_setWidth_of_le hw]
  simp

/-- The record part: what the map gives is what a read of the element answers. -/
theorem hostValue_recLen (s : State) (f : FieldName) :
    hostValue s (elemIndex (.recLen f)) = (readElem (.recLen f) s).toNat := by
  rw [hostValue_record s f (k := 0) (x := elemIndex (.recLen f)) (by decide) rfl]
  exact (BitVec.toNat_setWidth_of_le (by decide)).symm

theorem hostValue_recCh (s : State) (f : FieldName) (k : Fin 15) :
    hostValue s (elemIndex (.recCh f k)) = (readElem (.recCh f k) s).toNat := by
  rw [hostValue_record s f (k := k + 1) (x := elemIndex (.recCh f k)) (by omega) rfl, getD_fieldNumbers _ k.isLt]
  exact (BitVec.toNat_setWidth_of_le (by decide)).symm

/-- Where the map has no row the host reads 0; `CMD` has none either (rule R40). -/
theorem hostValue_of_not_mapped (s : State) {x : Nat} (h : ¬ Mapped x ∨ x = 0) :
    hostValue s x = 0 := by
  rw [hostValue_eq_rowsValue, registerRows]
  unfold Mapped at h
  repeat rw [rowsValue_skip (by
    simp only [covers, List.length_cons, List.length_nil, List.length_map, Vector.length_toList,
      fieldNumbers_length]
    omega)]
  rfl

/-- Rule R39's map lists at an element's index what a read of the element answers. -/
theorem hostValue_elemIndex (s : State) (e : RegElem) :
    hostValue s (elemIndex e) = (readElem e s).toNat := by
  cases e
  case cmd => exact hostValue_of_not_mapped s (.inr rfl)
  case unmapped => exact hostValue_of_not_mapped s (.inl (by decide))
  case recLen f => exact hostValue_recLen s f
  case recCh f k => exact hostValue_recCh s f k
  all_goals
    rw [hostValue_eq_rowsValue, registerRows]
    repeat rw [rowsValue_skip (by
      simp only [covers, elemIndex, List.length_cons, List.length_nil, List.length_map,
        Vector.length_toList]
      omega)]
    rw [rowsValue_take (by
      simp only [covers, elemIndex, List.length_cons, List.length_nil, List.length_map,
        Vector.length_toList]
      omega)]
  case status =>
    exact (statusNumber_eq _).trans (BitVec.toNat_setWidth_of_le (by decide)).symm
  case diff => rfl
  case res | fcs | fcsr | len | rpos | repinfo =>
    exact (BitVec.toNat_setWidth_of_le (by decide)).symm
  case n i | cw i | w i | track i | route i | sym i | sug i =>
    rw [elemIndex, Nat.add_sub_cancel_left]
    exact getD_map_toNat _ i (by decide)

/-- Rule R39's map and the model's read agree at every index. -/
theorem hostValue_eq_readElem (s : State) (idx : BitVec 10) :
    hostValue s idx.toNat = (readElem (regElem idx) s).toNat := by
  rcases names_regElem idx with ⟨hout, hreg⟩ | hidx
  · rw [hreg, hostValue_of_not_mapped s (.inl hout)]
    rfl
  · rw [← hidx, hostValue_elemIndex]

/-- Settles O10: the value read is the map's value at the index. -/
theorem hostReadHasNoSideEffect : Obligations.HostReadHasNoSideEffect := by
  intro s idx rest hh
  rw [Faulted.step_eq_hostAct hh, hostValue_eq_readElem, BitVec.ofNat_toNat, BitVec.setWidth_eq]
  have hsame : readElem (regElem idx) { s with host := rest } = readElem (regElem idx) s := by
    cases regElem idx <;> rfl
  rw [← hsame]
  rfl

/-! ### Writes (rule R40) -/

/-- The width of an element that the host may write. -/
def elemWidth : RegElem → Option Nat
  | .fcs | .fcsr | .n _ | .cw _ => some 11
  | .len => some 7
  | .w _ => some 13
  | .rpos | .track _ | .route _ | .recLen _ => some 4
  | .sym _ | .recCh _ _ => some 8
  | .cmd | .status | .res | .repinfo | .diff | .sug _ | .unmapped => none

theorem hostWidth_elemIndex (e : RegElem) : hostWidth (elemIndex e) = elemWidth e := by
  cases e
  case n i | cw i | w i | track i | route i | sym i | sug i => revert i; decide
  case recLen f => cases f <;> decide
  case recCh f k => cases f <;> revert k <;> decide
  all_goals decide

theorem hostWidth_of_not_mapped {x : Nat} (h : ¬ Mapped x) : hostWidth x = none := by
  rw [hostWidth, if_neg (by omega), Option.map_eq_none_iff, List.find?_eq_none]
  simp only [writableRows, List.forall_mem_cons, Bool.and_eq_true, decide_eq_true_eq]
  refine ⟨?_, ?_, ?_, ?_, ?_, ?_, ?_, ?_, ?_, ?_, fun _ hrow => nomatch hrow⟩ <;> omega

/-- The statements' table of writable rows has the widths of the elements. -/
theorem hostWidth_eq_elemWidth (idx : BitVec 10) :
    hostWidth idx.toNat = elemWidth (regElem idx) := by
  rcases names_regElem idx with ⟨hunmapped, he⟩ | hmapped
  · rw [hostWidth_of_not_mapped hunmapped, he]
    rfl
  · rw [← hmapped, hostWidth_elemIndex]

theorem regElem_eq_cmd_iff (idx : BitVec 10) : regElem idx = .cmd ↔ idx = 0 := by
  refine ⟨fun h => ?_, fun h => h ▸ regElem_zero⟩
  exact regElem_injective (by rw [h]; decide) (h.trans regElem_zero.symm)

/-- An element that the host may not write is left alone. -/
theorem writeElem_of_no_width {e : RegElem} (h : elemWidth e = none) (v : Nat) (s : State) :
    writeElem e v s = s := by
  cases e <;> first | rfl | cases h

theorem toNat_setWidth_ofNat {k : Nat} (hk : k ≤ 65) (v : Nat) :
    ((BitVec.ofNat k v).setWidth 65).toNat = v % 2 ^ k := by
  rw [BitVec.toNat_setWidth_of_le hk, BitVec.toNat_ofNat]

/-- A written element reads back as the value modulo its width. -/
theorem readElem_writeElem_self {e : RegElem} {k : Nat} (h : elemWidth e = some k) (v : Nat)
    (s : State) : (readElem e (writeElem e v s)).toNat = v % 2 ^ k := by
  cases e <;> cases h
  case fcs | fcsr | len | rpos => exact toNat_setWidth_ofNat (by decide) v
  case n i | cw i | w i | track i | route i | sym i =>
    simp only [readElem, writeElem, Fin.getElem_fin, Vector.getElem_set_self]
    exact toNat_setWidth_ofNat (by decide) v
  case recLen f =>
    simp only [readElem, writeElem, field_withField]
    exact toNat_setWidth_ofNat (by decide) v
  case recCh f k =>
    simp only [readElem, writeElem, field_withField, Fin.getElem_fin, Vector.getElem_set_self]
    exact toNat_setWidth_ofNat (by decide) v

/-- A write to one entry of an array leaves the others. -/
theorem getElem_set_other {α : Type} {n : Nat} (v : Vector α n) {i j : Fin n} (x : α) (h : i ≠ j) :
    (v.set i x)[j] = v[j] :=
  Vector.getElem_set_ne i.isLt j.isLt fun hij => h (Fin.ext hij)

/-- A write to a field of the record, seen at a field. -/
theorem field_write_cases (r : Record) (f g : FieldName) (x : RecField) :
    (f = g ∧ (r.withField f x).field g = x) ∨
      (f ≠ g ∧ (r.withField f x).field g = r.field g) := by
  by_cases h : f = g
  · exact .inl ⟨h, h ▸ field_withField r f x⟩
  · exact .inr ⟨h, field_withField_ne r h x⟩

/-- One index names one whole element: a write leaves every other element as it was. -/
theorem readElem_writeElem_ne {e e' : RegElem} (h : e ≠ e') (v : Nat) (s : State) :
    readElem e' (writeElem e v s) = readElem e' s := by
  have set_eq {α : Type} {n : Nat} (a : Vector α n) {i j : Fin n} {c : Fin n → RegElem} (x : α)
      (hc : c i ≠ c j) : (a.set i x)[j] = a[j] :=
    getElem_set_other a x fun hij => hc (congrArg c hij)
  cases e with
  | cmd | status | res | repinfo | diff | sug _ | unmapped => rfl
  | fcs => cases e' <;> first | rfl | exact absurd rfl h
  | fcsr => cases e' <;> first | rfl | exact absurd rfl h
  | len => cases e' <;> first | rfl | exact absurd rfl h
  | rpos => cases e' <;> first | rfl | exact absurd rfl h
  | n i => cases e' <;> first | rfl | exact congrArg (·.setWidth 65) (set_eq s.n _ h)
  | cw i => cases e' <;> first | rfl | exact congrArg (·.setWidth 65) (set_eq s.cw _ h)
  | w i => cases e' <;> first | rfl | exact congrArg (·.setWidth 65) (set_eq s.w _ h)
  | track i => cases e' <;> first | rfl | exact congrArg (·.setWidth 65) (set_eq s.track _ h)
  | route i => cases e' <;> first | rfl | exact congrArg (·.setWidth 65) (set_eq s.route _ h)
  | sym i => cases e' <;> first | rfl | exact congrArg (·.setWidth 65) (set_eq s.sym _ h)
  | recLen f =>
    cases e' with
    | recLen g =>
      rcases field_write_cases s.record f g { s.record.field f with len := BitVec.ofNat 4 v } with
        ⟨rfl, -⟩ | ⟨-, hfield⟩
      · exact absurd rfl h
      · simp only [readElem, writeElem, hfield]
    | recCh g j =>
      rcases field_write_cases s.record f g { s.record.field f with len := BitVec.ofNat 4 v } with
        ⟨rfl, hfield⟩ | ⟨-, hfield⟩ <;> simp only [readElem, writeElem, hfield]
    | _ => rfl
  | recCh f k =>
    cases e' with
    | recLen g =>
      rcases field_write_cases s.record f g { s.record.field f with
        ch := (s.record.field f).ch.set k (BitVec.ofNat 8 v) } with
        ⟨rfl, hfield⟩ | ⟨-, hfield⟩ <;> simp only [readElem, writeElem, hfield]
    | recCh g j =>
      rcases field_write_cases s.record f g { s.record.field f with
        ch := (s.record.field f).ch.set k (BitVec.ofNat 8 v) } with
        ⟨rfl, hfield⟩ | ⟨-, hfield⟩
      · simp only [readElem, writeElem, hfield, set_eq (s.record.field f).ch _ h]
      · simp only [readElem, writeElem, hfield]
    | _ => rfl

/-- A step whose action writes an index other than `CMD` writes the element (rule R40). -/
theorem step_write {s : State} {idx : BitVec 10} {v : Nat} {rest : List HostAction}
    (hidx : idx ≠ 0) (hh : s.host = .write idx v :: rest) :
    step s = .next (writeElem (regElem idx) v { s with host := rest }) := by
  have hcmd : regElem idx ≠ .cmd := fun h => hidx ((regElem_eq_cmd_iff idx).mp h)
  rw [Faulted.step_eq_hostAct hh]
  simp only [hostAct, hostWrite]

/-- What the host reads does not depend on its actions to come. -/
theorem hostValue_host (s : State) (rest : List HostAction) (x : Nat) :
    hostValue { s with host := rest } x = hostValue s x := rfl

/-- Settles O11: a writable element reads back what was written, any other is left alone. -/
theorem hostWriteThenRead : Obligations.HostWriteThenRead := by
  intro s idx v rest hidx hh
  refine ⟨_, step_write hidx hh, fun k hk => ?_, fun hnone => ?_⟩
  · rw [hostWidth_eq_elemWidth] at hk
    rw [hostValue_eq_readElem, readElem_writeElem_self hk]
  · rw [hostWidth_eq_elemWidth] at hnone
    exact writeElem_of_no_width hnone v _

/-- Settles O12: another index names another element, or the write is ignored. -/
theorem hostWriteLeavesOtherIndices : Obligations.HostWriteLeavesOtherIndices := by
  intro s t idx other v rest hidx hne hh hstep
  cases (step_write hidx hh).symm.trans hstep
  refine ⟨?_, writeElem_host .., writeElem_rdata .., writeElem_fresh ..⟩
  rw [hostValue_eq_readElem, ← hostValue_host s rest, hostValue_eq_readElem]
  by_cases hreg : regElem idx = .unmapped
  · rw [writeElem_of_no_width (by rw [hreg]; rfl)]
  · exact congrArg BitVec.toNat
      (readElem_writeElem_ne (fun heq => hne (regElem_injective hreg heq)) v _)

/-! ### Commands through the port (rules R22, R100) -/

/-- A step whose action writes `CMD` runs the word (rule R38). -/
theorem step_write_cmd {s : State} {v : Nat} {rest : List HostAction}
    (hh : s.host = .write 0 v :: rest) :
    step s = runWord (BitVec.ofNat 64 v) { s with host := rest } := by
  rw [Faulted.step_eq_hostAct hh]
  exact Faulted.hostWrite_zero v _

theorem runWord_of_decode {c : CmdWord} {i : Instr} (h : decode c = some i) (s : State) :
    runWord c s = exec i s := by
  rw [runWord, h]

/-- Settles O5: the word written to `CMD` is decoded and run. -/
theorem stepRunsTheDecodedCommand : Obligations.StepRunsTheDecodedCommand := by
  refine ⟨fun s v rest i hh hdec => ?_, fun s w i hdec => ?_⟩
  · rw [step_write_cmd hh, runWord_of_decode hdec]
  · have hdec' : decode (BitVec.ofNat 64 (w % 2 ^ 64)) = some i := by
      unfold decodeTableWord at hdec
      rwa [if_pos (Nat.mod_lt _ (by decide))] at hdec
    exact (step_write_cmd (s := s.withFetchWord 64 w) rfl).trans (runWord_of_decode hdec' _)

/-- A command answers a next state on every core (rules R102, R280). -/
theorem command_next (body : State → Run) (s : State) : ∃ t, command body s = .next t := by
  rcases command_cases body s with ⟨-, h⟩ | ⟨-, ⟨t, -, h⟩ | ⟨e, t, -, h⟩⟩ <;> exact ⟨_, h⟩

theorem exec_next (i : Instr) (s : State) : ∃ t, exec i s = .next t := by
  obtain ⟨body, hbody⟩ := Faulted.exec_eq_command i s
  rw [hbody]
  exact command_next body s

/-- Settles O6 from the cases of a step. -/
theorem everyStepAnswersNext : Obligations.EveryStepAnswersNext := by
  refine ⟨fun s => ?_, fun s hh => by simp only [step, portStep, hh]⟩
  rcases step_cases s with ⟨-, h⟩ | ⟨_, _, -, h⟩ | ⟨_, -, h⟩ | ⟨_, _, _, -, -, h⟩ |
    ⟨_, _, _, i, -, -, -, h⟩ | ⟨_, _, _, -, -, -, h⟩
  case inr.inr.inr.inr.inl => exact h ▸ exec_next i _
  case inr.inr.inr.inr.inr => exact h ▸ command_next _ _
  all_goals exact ⟨_, h⟩

/-- Settles O8: a word that selects no row decodes to nothing, and an illegal word faults. -/
theorem illegalWordFaults : Obligations.IllegalWordFaults := by
  intro s v rest hf hh hrows
  have hnone := (Encoding.wordSelectsByMaskAndMatch.2 (BitVec.ofNat 64 v)).mpr hrows
  rw [step_write_cmd hh, runWord, hnone]
  exact command_raised (e := .fault .illegalCmd) (s := { s with host := rest }) hf rfl

/-- Settles O13: after the opening clear there is nothing left to do. -/
theorem nopClearsTheResultFields : Obligations.NopClearsTheResultFields :=
  ⟨by decide, fun _ hf => command_ok (body := .ok) hf rfl⟩

/-- Settles O60: every register is 0. -/
theorem resetHasTheInvariant : Obligations.ResetHasTheInvariant :=
  ⟨.inl rfl, .inl rfl, .inl ⟨rfl, rfl⟩, fun h => absurd h (by decide)⟩

end Sys2Proof.Proofs.Port
end

section
/-! SUPPORT. The frame-check sequence of an exclusive or (spec/42_fcs.md rule R133). -/

namespace Sys2Proof.Proofs.FcsAffine

open Sys2Proof Sys2Proof.Machine

set_option Elab.async false

/-- One limb's turn is linear in the temporary and the limb together. -/
theorem fcsLimb_xor (f g : BitVec 12) (x y : Limb) :
    fcsLimb (f ^^^ g) (x ^^^ y) = fcsLimb f x ^^^ fcsLimb g y := by
  rw [fcsLimb, fcsLimb, fcsLimb, ← fcsShifts_xor, BitVec.setWidth_xor]
  congr 1
  rw [BitVec.xor_assoc, BitVec.xor_assoc, ← BitVec.xor_assoc g, BitVec.xor_comm g,
    BitVec.xor_assoc]

/-- So are all turns. -/
theorem foldl_fcsLimb_zipWith_xor (l l' : List Limb) (hlen : l.length = l'.length)
    (f g : BitVec 12) :
    (List.zipWith (· ^^^ ·) l l').foldl fcsLimb (f ^^^ g) =
      l.foldl fcsLimb f ^^^ l'.foldl fcsLimb g := by
  induction l generalizing l' f g with
  | nil =>
    cases l' with
    | nil => rfl
    | cons y l' => cases hlen
  | cons x l ih =>
    cases l' with
    | nil => cases hlen
    | cons y l' =>
      rw [List.zipWith_cons_cons, List.foldl_cons, List.foldl_cons, List.foldl_cons, fcsLimb_xor,
        ih l' (Nat.succ.inj hlen)]

/-- The FCS from any start of the temporary. -/
def fcsFrom (f : BitVec 12) (n : Limbs) : BitVec 11 := (n.toList.foldl fcsLimb f).setWidth 11

theorem fcsFrom_xor (f g : BitVec 12) (a b : Limbs) :
    fcsFrom (f ^^^ g) (Vector.ofFn fun i => a[i] ^^^ b[i]) = fcsFrom f a ^^^ fcsFrom g b := by
  have hlist : (Vector.ofFn fun i : Fin 10 => a[i] ^^^ b[i]).toList =
      List.zipWith (· ^^^ ·) a.toList b.toList :=
    List.ext_getElem (by simp) fun i _ _ => by simp
  rw [fcsFrom, hlist, foldl_fcsLimb_zipWith_xor _ _ (by simp), BitVec.setWidth_xor]
  rfl

/-- Settles O23: the start value of the temporary is the exclusive or of three start values, so the
three sequences add up to that of `a ^ b ^ 0`. -/
theorem fcsIsAffine : Obligations.FcsIsAffine := by
  intro a b
  have hzero : (Vector.ofFn fun i : Fin 10 => (Vector.ofFn fun i : Fin 10 => a[i] ^^^ b[i])[i] ^^^
      (Vector.replicate 10 (0 : Limb))[i]) = Vector.ofFn fun i : Fin 10 => a[i] ^^^ b[i] :=
    Vector.ext fun i hi => by simp
  calc fcsOf (Vector.ofFn fun i => a[i] ^^^ b[i])
      = fcsFrom ((fcsSeed ^^^ fcsSeed) ^^^ fcsSeed) (Vector.ofFn fun i => a[i] ^^^ b[i]) := rfl
    _ = fcsFrom (fcsSeed ^^^ fcsSeed) (Vector.ofFn fun i => a[i] ^^^ b[i]) ^^^
          fcsFrom fcsSeed (Vector.replicate 10 0) := by rw [← fcsFrom_xor, hzero]
    _ = fcsOf a ^^^ fcsOf b ^^^ fcsOf (Vector.replicate 10 0) := by rw [fcsFrom_xor]; rfl

end Sys2Proof.Proofs.FcsAffine
end

section
/-! SUPPORT. The constant tables (spec/43_tables.md): weights as sums of bits, the construction of
rule R141 evaluated, and what the listing's words have in common. -/

namespace Sys2Proof.Proofs.Tables

open Sys2Proof Sys2Proof.Machine

set_option Elab.async false

/-! ### The weight of a word (rules R13, R15) -/

/-- Filtering counts the elements that satisfy the test. -/
theorem length_filter_eq_sum (l : List Nat) (p : Nat → Bool) :
    (l.filter p).length = (l.map fun b => (p b).toNat).sum := by
  induction l with
  | nil => rfl
  | cons b l ih => cases h : p b <;> simp [h, ih, Nat.add_comm]

theorem weight_eq_sum (w : Char13) :
    weight w = ((List.range 13).map fun b => (w.getLsbD b).toNat).sum :=
  length_filter_eq_sum _ _

/-- A word and its complement share out the thirteen bits. -/
theorem weight_complement (w : Char13) : weight (w ^^^ 0x1FFF) = 13 - weight w := by
  have hbit : ∀ b ∈ List.range 13, (w ^^^ 0x1FFF).getLsbD b = !w.getLsbD b := by
    intro b hb
    have hones : (0x1FFF : Char13).getLsbD b = true := by
      have hall : ∀ b ∈ List.range 13, (0x1FFF : Char13).getLsbD b = true := by decide
      exact hall b hb
    rw [BitVec.getLsbD_xor, hones, Bool.xor_true]
  have hcount := List.length_eq_length_filter_add (l := List.range 13) (w.getLsbD ·)
  have hfilter : (List.range 13).filter (fun b => (w ^^^ 0x1FFF).getLsbD b) =
      (List.range 13).filter (fun b => !w.getLsbD b) := List.filter_congr hbit
  rw [List.length_range] at hcount
  rw [weight, weight, hfilter]
  omega

/-- Flipping one of the counted bits changes the count by one. -/
theorem sum_flip (p q : Nat → Bool) (l : List Nat) (hl : l.Nodup) {b : Nat} (hb : b ∈ l)
    (hflip : q b = !p b) (hother : ∀ c ∈ l, c ≠ b → q c = p c) :
    (l.map fun c => (q c).toNat).sum = (l.map fun c => (p c).toNat).sum + 1 ∨
      (l.map fun c => (q c).toNat).sum + 1 = (l.map fun c => (p c).toNat).sum := by
  induction l with
  | nil => cases hb
  | cons c l ih =>
    rw [List.nodup_cons] at hl
    rw [List.map_cons, List.map_cons, List.sum_cons, List.sum_cons]
    rcases List.mem_cons.mp hb with rfl | hmem
    · have hsame : l.map (fun c => (q c).toNat) = l.map (fun c => (p c).toNat) :=
        List.map_congr_left fun c hc => by
          rw [hother c (List.mem_cons_of_mem _ hc) fun h => hl.1 (h ▸ hc)]
      rw [hsame, hflip]
      cases p b <;> simp <;> omega
    · rw [hother c List.mem_cons_self fun h => hl.1 (h ▸ hmem)]
      have := ih hl.2 hmem fun c hc => hother c (List.mem_cons_of_mem _ hc)
      omega

/-- A single changed bit changes the weight by one. -/
theorem weight_flip (w : Char13) (b : Fin 13) :
    weight (w ^^^ BitVec.twoPow 13 b) = weight w + 1 ∨
      weight (w ^^^ BitVec.twoPow 13 b) + 1 = weight w := by
  rw [weight_eq_sum, weight_eq_sum]
  refine sum_flip _ _ _ List.nodup_range (List.mem_range.mpr b.isLt) ?_ fun c _ hc => ?_
  · simp
  · simp [BitVec.getLsbD_twoPow, hc.symm]

/-! ### Numbers of thirteen bits, for evaluation -/

/-- The weight of a number below 2^13 as a sum of its bits. -/
def bitSum (n : Nat) : Nat :=
  n % 2 + n / 2 % 2 + n / 4 % 2 + n / 8 % 2 + n / 16 % 2 + n / 32 % 2 + n / 64 % 2 + n / 128 % 2 +
    n / 256 % 2 + n / 512 % 2 + n / 1024 % 2 + n / 2048 % 2 + n / 4096 % 2

/-- Its bits in reverse order. -/
def mirror (n : Nat) : Nat :=
  n % 2 * 4096 + n / 2 % 2 * 2048 + n / 4 % 2 * 1024 + n / 8 % 2 * 512 + n / 16 % 2 * 256 +
    n / 32 % 2 * 128 + n / 64 % 2 * 64 + n / 128 % 2 * 32 + n / 256 % 2 * 16 + n / 512 % 2 * 8 +
    n / 1024 % 2 * 4 + n / 2048 % 2 * 2 + n / 4096 % 2

theorem toNat_getLsbD {k : Nat} (w : BitVec k) (b : Nat) :
    (w.getLsbD b).toNat = w.toNat / 2 ^ b % 2 := by
  rw [BitVec.getLsbD, Nat.testBit_eq_decide_div_mod_eq]
  have : w.toNat / 2 ^ b % 2 < 2 := Nat.mod_lt _ (by decide)
  by_cases h : w.toNat / 2 ^ b % 2 = 1
  · rw [h]; rfl
  · rw [decide_eq_false h, Bool.toNat_false]; omega

theorem weight_eq_bitSum (w : Char13) : weight w = bitSum w.toNat := by
  rw [weight_eq_sum]
  simp only [toNat_getLsbD]
  simp only [List.range_succ, List.range_zero, List.nil_append, List.map_append, List.map_cons,
    List.map_nil, List.sum_append, List.sum_cons, List.sum_nil, bitSum]
  norm_num

/-- A number is the sum of its bits at their places. -/
theorem sum_bits (x k : Nat) :
    ((List.range k).map fun b => x / 2 ^ b % 2 * 2 ^ b).sum = x % 2 ^ k := by
  induction k with
  | zero => simp [Nat.mod_one]
  | succ k ih =>
    rw [List.range_succ, List.map_append, List.sum_append, ih, Nat.mod_pow_succ]
    simp [Nat.mul_comm]

theorem rev13_eq_mirror (w : Char13) : (rev13 w).toNat = mirror w.toNat := by
  have hbit : ∀ b ∈ List.range 13, (rev13 w).toNat / 2 ^ b % 2 * 2 ^ b =
      w.toNat / 2 ^ (12 - b) % 2 * 2 ^ b := by
    intro b hb
    rw [← toNat_getLsbD, ← toNat_getLsbD, rev13, BitVec.getLsbD_reverse, BitVec.getMsbD]
    simp [List.mem_range.mp hb]
  calc (rev13 w).toNat = (rev13 w).toNat % 2 ^ 13 := (Nat.mod_eq_of_lt (rev13 w).isLt).symm
    _ = ((List.range 13).map fun b => w.toNat / 2 ^ (12 - b) % 2 * 2 ^ b).sum := by
      rw [← sum_bits, List.map_congr_left hbit]
    _ = mirror w.toNat := by
      simp only [List.range_succ, List.range_zero, List.nil_append, List.map_append, List.map_cons,
        List.map_nil, List.sum_append, List.sum_cons, List.sum_nil, mirror]
      norm_num
      omega

/-! ### The construction of rule R141, evaluated -/

/-- `buildStep` on numbers. -/
def quickStep (b : TableBuild) (fwd : Nat) : TableBuild :=
  let rev := mirror fwd
  match bitSum fwd with
  | 5 =>
    if fwd = rev then { b with placed := (b.hi5, fwd) :: b.placed, hi5 := b.hi5 - 1 }
    else if fwd < rev then
      { b with placed := (b.low5 + 1, rev) :: (b.low5, fwd) :: b.placed, low5 := b.low5 + 2 }
    else b
  | 2 =>
    if fwd = rev then { b with placed := (b.hi2, fwd) :: b.placed, hi2 := b.hi2 - 1 }
    else if fwd < rev then
      { b with placed := (b.low2 + 1, rev) :: (b.low2, fwd) :: b.placed, low2 := b.low2 + 2 }
    else b
  | _ => b

theorem buildStep_eq_quickStep (b : TableBuild) {fwd : Nat} (h : fwd < 8192) :
    buildStep b fwd = quickStep b fwd := by
  have hnat : (BitVec.ofNat 13 fwd).toNat = fwd := by
    rw [BitVec.toNat_ofNat]
    exact Nat.mod_eq_of_lt h
  simp only [buildStep, quickStep, weight_eq_bitSum, rev13_eq_mirror, hnat] <;> rfl

/-- Words of another weight are skipped. -/
theorem quickStep_of_bitSum_ne (b : TableBuild) {fwd : Nat} (h2 : bitSum fwd ≠ 2)
    (h5 : bitSum fwd ≠ 5) : quickStep b fwd = b := by
  simp only [quickStep]

/-- The numbers below 2^m with `k` bits set, as a bit mask, by Pascal's rule on the top bit. -/
def weightMask : Nat → Nat → Nat
  | 0, 0 => 1
  | 0, _ + 1 => 0
  | m + 1, 0 => weightMask m 0
  | m + 1, k + 1 => weightMask m (k + 1) ||| weightMask m k <<< 2 ^ m

/-- How many of the lowest `m` bits of `n` are set. -/
def bitCount (m n : Nat) : Nat := ((List.range m).map fun b => n / 2 ^ b % 2).sum

theorem bitCount_succ (m n : Nat) : bitCount (m + 1) n = bitCount m n + n / 2 ^ m % 2 := by
  simp [bitCount, List.range_succ]

theorem bitCount_sub {m n : Nat} (h : 2 ^ m ≤ n) : bitCount m (n - 2 ^ m) = bitCount m n := by
  refine congrArg List.sum (List.map_congr_left fun b hb => ?_)
  obtain ⟨d, rfl⟩ := Nat.exists_eq_add_of_lt (List.mem_range.mp hb)
  have hsplit : n = n - 2 ^ (b + d + 1) + 2 ^ b * (2 * 2 ^ d) := by
    rw [Nat.mul_left_comm, ← Nat.pow_add, ← Nat.pow_succ', Nat.sub_add_cancel h]
  conv_rhs => rw [hsplit, Nat.add_mul_div_left _ _ (Nat.two_pow_pos b), Nat.add_mul_mod_self_left]

theorem bitSum_eq_bitCount (n : Nat) : bitSum n = bitCount 13 n := by
  simp only [bitCount, bitSum, List.range_succ, List.range_zero, List.nil_append, List.map_append,
    List.map_cons, List.map_nil, List.sum_append, List.sum_cons, List.sum_nil]
  norm_num

theorem testBit_weightMask (m k n : Nat) :
    (weightMask m k).testBit n = decide (n < 2 ^ m ∧ bitCount m n = k) := by
  induction m generalizing k n with
  | zero =>
    have hcount : bitCount 0 n = 0 := rfl
    cases k with
    | zero =>
      have hone : Nat.testBit 1 n = decide (0 = n) := Nat.testBit_two_pow (n := 0)
      simp [weightMask, hcount, hone, eq_comm]
    | succ k => simp [weightMask, hcount]
  | succ m ih =>
    have hcount := bitCount_succ m n
    have htwo : 2 ^ (m + 1) = 2 * 2 ^ m := Nat.pow_succ'
    rcases Nat.lt_or_ge n (2 ^ m) with hlow | hhigh
    · rw [Nat.div_eq_of_lt hlow] at hcount
      cases k <;> simp [weightMask, ih, hcount, hlow, Nat.not_le.mpr hlow] <;> omega
    · have hmask : n - 2 ^ m < 2 ^ m ↔ n < 2 ^ (m + 1) := by omega
      have hdiv : n < 2 ^ (m + 1) → n / 2 ^ m % 2 = 1 := fun h => by
        rw [Nat.div_eq_of_lt_le (k := 1) (by omega) (by omega)]
      have hpos : n < 2 ^ (m + 1) → bitCount (m + 1) n = bitCount m n + 1 := fun h => by
        rw [hcount, hdiv h]
      cases k with
      | zero =>
        simp only [weightMask, ih, decide_eq_decide]
        omega
      | succ k =>
        simp only [weightMask, Nat.testBit_or, Nat.testBit_shiftLeft, ih, bitCount_sub hhigh, hmask,
          ← Bool.decide_or, ← Bool.decide_and, decide_eq_decide]
        omega

/-- The numbers of weight 2 or 5. -/
def tableMask : Nat := weightMask 13 2 ||| weightMask 13 5

theorem testBit_tableMask {n : Nat} (h : n < 8192) :
    tableMask.testBit n = decide (bitSum n = 2 ∨ bitSum n = 5) := by
  simp only [tableMask, Nat.testBit_or, testBit_weightMask, ← bitSum_eq_bitCount,
    Nat.reducePow, h, true_and, Bool.decide_or]

/-- The words that the scan places, in its order. -/
def tableWords : List Nat := (List.range 8192).filter (tableMask.testBit ·)

theorem buildTable_eq_quick : buildTable = tableWords.foldl quickStep .start := by
  rw [tableWords, List.foldl_filter]
  refine List.foldl_ext _ _ _ fun b n hn => ?_
  have hlt := List.mem_range.mp hn
  rw [buildStep_eq_quickStep b hlt, testBit_tableMask hlt]
  by_cases h : bitSum n = 2 ∨ bitSum n = 5
  · simp [h]
  · rw [if_neg (by simpa using h)]
    exact quickStep_of_bitSum_ne b (fun h2 => h (.inl h2)) fun h5 => h (.inr h5)

/-- A set of numbers as a bit mask. -/
def maskOf (l : List Nat) : Nat := l.foldl (fun m x => m ||| 2 ^ x) 0

theorem testBit_maskOf (l : List Nat) (y : Nat) : (maskOf l).testBit y = decide (y ∈ l) := by
  have key : ∀ (l : List Nat) (m : Nat), (l.foldl (fun m x => m ||| 2 ^ x) m).testBit y =
      (m.testBit y || decide (y ∈ l)) := by
    intro l
    induction l with
    | nil => simp
    | cons x l ih =>
      intro m
      rw [List.foldl_cons, ih, Nat.testBit_or, Nat.testBit_two_pow, Bool.or_assoc]
      by_cases h : y = x
      · simp [h]
      · simp [h, Ne.symm h]
  rw [maskOf, key, Nat.zero_testBit, Bool.false_or]

/-- The mask of all numbers below `n`. -/
def fullMask (n : Nat) : Nat := 2 ^ n - 1

theorem testBit_fullMask (n i : Nat) : (fullMask n).testBit i = decide (i < n) :=
  Nat.testBit_two_pow_sub_one n i

/-- What the construction has to yield, as one test: how many entries, each with its listed word,
every index, and where the four counters stop. -/
def tableOk (b : TableBuild) : Bool :=
  (b.placed.length == 1365) &&
  (b.placed.all fun x => decide (x.1 ≤ 1364) && ((romEnc x.1).toNat == x.2)) &&
  (maskOf (b.placed.map Prod.fst) == fullMask 1365) &&
  (b.low5 == 1272) && (b.hi5 == 1271) && (b.low2 == 1359) && (b.hi2 == 1358)

theorem tableOk_quick : tableOk (tableWords.foldl quickStep .start) = true := by
  decide +kernel

/-- Settles O27: the scan is evaluated on numbers, once. -/
theorem listingIsTheConstruction : Obligations.ListingIsTheConstruction := by
  have hok := tableOk_quick
  rw [← buildTable_eq_quick] at hok
  simp only [tableOk, Bool.and_eq_true, beq_iff_eq, List.all_eq_true, decide_eq_true_eq] at hok
  obtain ⟨⟨⟨⟨⟨⟨hlen, hwords⟩, hmask⟩, hlow5⟩, hhi5⟩, hlow2⟩, hhi2⟩ := hok
  refine ⟨hlen, hwords, fun i hi => ?_, hlow5, hhi5, hlow2, hhi2⟩
  have hbit := testBit_maskOf (buildTable.placed.map Prod.fst) i
  rw [hmask, testBit_fullMask, decide_eq_true (Nat.lt_succ_of_le hi)] at hbit
  exact of_decide_eq_true hbit.symm

/-! ### The listing (rule R150) -/

/-- Rows of fifteen, read one after the other. -/
theorem getD_flatten_rows (rows : List (List Nat)) (h : ∀ r ∈ rows, r.length = 15) (i : Nat) :
    rows.flatten.getD i 0 = (rows.getD (i / 15) []).getD (i % 15) 0 := by
  induction rows generalizing i with
  | nil => simp
  | cons r rows ih =>
    have hr : r.length = 15 := h r List.mem_cons_self
    by_cases hi : i < 15
    · have hdiv : i / 15 = 0 := Nat.div_eq_of_lt hi
      rw [List.flatten_cons, List.getD_append _ _ _ _ (hr ▸ hi), hdiv, Nat.mod_eq_of_lt hi]
      rfl
    · have hdiv : i / 15 = (i - 15) / 15 + 1 := by omega
      have hmod : i % 15 = (i - 15) % 15 := by omega
      rw [List.flatten_cons, List.getD_append_right _ _ _ _ (by omega), hr, hdiv, hmod,
        ih fun r hr => h r (List.mem_cons_of_mem _ hr)]
      rfl

theorem encRows_length : ∀ r ∈ encRows, r.length = 15 := by decide +kernel

theorem encTable_lt : ∀ x ∈ encTable, x < 8192 := by decide +kernel

/-- `Rom.enc[i]` is entry `i` of the listing. -/
theorem romEnc_toNat {i : Nat} (h : i < encTable.length) : (romEnc i).toNat = encTable[i] := by
  rw [romEnc, ← getD_flatten_rows _ encRows_length i, BitVec.toNat_ofNat]
  rw [show encRows.flatten = encTable from rfl, List.getD_eq_getElem _ _ h]
  exact Nat.mod_eq_of_lt (encTable_lt _ (List.getElem_mem h))

/-- No number of the list is in the mask or stands twice. -/
def distinctFrom : Nat → List Nat → Bool
  | _, [] => true
  | m, x :: l => !m.testBit x && distinctFrom (m ||| 2 ^ x) l

theorem nodup_of_distinctFrom (m : Nat) (l : List Nat) (h : distinctFrom m l = true) :
    l.Nodup ∧ ∀ x ∈ l, m.testBit x = false := by
  induction l generalizing m with
  | nil => simp
  | cons x l ih =>
    simp only [distinctFrom, Bool.and_eq_true, Bool.not_eq_true'] at h
    obtain ⟨hnodup, hfree⟩ := ih _ h.2
    simp only [Nat.testBit_or, Nat.testBit_two_pow, Bool.or_eq_false_iff, decide_eq_false_iff_not]
      at hfree
    refine ⟨List.nodup_cons.mpr ⟨fun hx => (hfree x hx).2 rfl, hnodup⟩, fun y hy => ?_⟩
    rcases List.mem_cons.mp hy with rfl | hy
    · exact h.1
    · exact (hfree y hy).1

theorem encTable_nodup : encTable.Nodup :=
  (nodup_of_distinctFrom 0 encTable (by decide +kernel)).1

theorem encTable_bitSum :
    (encTable.take 1287).all (fun x => bitSum x == 5) = true ∧
      (encTable.drop 1287).all (fun x => bitSum x == 2) = true := by
  constructor <;> decide +kernel

/-- Exactly the numbers of weight 2 or 5 are listed. -/
theorem maskOf_encTable : maskOf encTable = tableMask := by
  decide +kernel

theorem mem_encTable_of_weight {w : Char13} (h : weight w = 2 ∨ weight w = 5) :
    w.toNat ∈ encTable := by
  rw [weight_eq_bitSum] at h
  have hbit := testBit_maskOf encTable w.toNat
  rw [maskOf_encTable, testBit_tableMask w.isLt, decide_eq_true h] at hbit
  exact of_decide_eq_true hbit.symm

theorem weight_romEnc_low {i : Nat} (h : i ≤ 1286) : weight (romEnc i) = 5 := by
  have hlen := Codeword.encTable_length
  rw [weight_eq_bitSum, romEnc_toNat (by omega)]
  have hmem : encTable[i]'(by omega) ∈ encTable.take 1287 :=
    List.mem_take_iff_getElem.mpr ⟨i, by omega, rfl⟩
  simpa using List.all_eq_true.mp encTable_bitSum.1 _ hmem

theorem weight_romEnc_high {i : Nat} (hlo : 1287 ≤ i) (hhi : i ≤ 1364) : weight (romEnc i) = 2 := by
  have hlen := Codeword.encTable_length
  rw [weight_eq_bitSum, romEnc_toNat (by omega)]
  have hmem : encTable[i]'(by omega) ∈ encTable.drop 1287 :=
    List.mem_drop_iff_getElem.mpr ⟨i - 1287, by omega, getElem_congr_idx (by omega)⟩
  simpa using List.all_eq_true.mp encTable_bitSum.2 _ hmem

/-! ### Looking words up (rules R146, R147) -/

/-- A word is found exactly at the index that lists it. -/
theorem encIndex_eq_some_iff (w : Char13) (i : Nat) :
    encIndex w = some i ↔ i ≤ 1364 ∧ romEnc i = w := by
  have hlen := Codeword.encTable_length
  have hbeq : ∀ x y : Nat, Nat.beq x y = true ↔ x = y := fun x y => Nat.beq_eq ▸ Iff.rfl
  rw [encIndex, List.findIdx?_eq_some_iff_getElem]
  constructor
  · rintro ⟨hi, hp, -⟩
    exact ⟨by omega, BitVec.eq_of_toNat_eq ((romEnc_toNat hi).trans ((hbeq _ _).mp hp))⟩
  · rintro ⟨hi, rfl⟩
    have hi' : i < encTable.length := by omega
    refine ⟨hi', (hbeq _ _).mpr (romEnc_toNat hi').symm, fun j hj hp => ?_⟩
    have heq := ((hbeq _ _).mp hp).trans (romEnc_toNat hi')
    exact hj.ne ((encTable_nodup.getElem_inj_iff).mp heq)

theorem complement_complement (w : Char13) : w ^^^ 0x1FFF ^^^ 0x1FFF = w := by
  rw [BitVec.xor_assoc, BitVec.xor_self, BitVec.xor_zero]

theorem complement_inj {w x : Char13} : w ^^^ 0x1FFF = x ↔ w = x ^^^ 0x1FFF :=
  ⟨fun h => by rw [← h, complement_complement], fun h => by rw [h, complement_complement]⟩

/-- The two cases in which a word has an index: it is listed, or its complement is. -/
theorem romDec_eq_some_iff (w : Char13) (i : Nat) :
    romDec w = some i ↔
      ((weight w = 2 ∨ weight w = 5) ∧ i ≤ 1364 ∧ w = romEnc i) ∨
      ((weight w = 8 ∨ weight w = 11) ∧ i ≤ 1364 ∧ w = romEnc i ^^^ 0x1FFF) := by
  unfold romDec
  split
  case h_1 h | h_2 h => simp [h, encIndex_eq_some_iff, eq_comm (a := romEnc i)]
  case h_3 h | h_4 h =>
    simp only [h, encIndex_eq_some_iff, complement, eq_comm (a := romEnc i), complement_inj]
    simp
  case h_5 h2 h5 h8 h11 =>
    constructor
    · intro h
      cases h
    · rintro (⟨h | h, -⟩ | ⟨h | h, -⟩)
      · exact (h2 h).elim
      · exact (h5 h).elim
      · exact (h8 h).elim
      · exact (h11 h).elim

theorem romDec_romEnc {i : Nat} (h : i ≤ 1364) :
    romDec (romEnc i) = some i ∧ romDec (romEnc i ^^^ 0x1FFF) = some i ∧
      romFcs (romEnc i) = 0 ∧ romFcs (romEnc i ^^^ 0x1FFF) = 1 := by
  have hweight : weight (romEnc i) = 5 ∨ weight (romEnc i) = 2 := by
    by_cases hi : i ≤ 1286
    · exact .inl (weight_romEnc_low hi)
    · exact .inr (weight_romEnc_high (by omega) h)
  have hcomplement := weight_complement (romEnc i)
  refine ⟨(romDec_eq_some_iff _ _).mpr (.inl ⟨by omega, h, rfl⟩),
    (romDec_eq_some_iff _ _).mpr (.inr ⟨by omega, h, rfl⟩), ?_, ?_⟩
  · exact if_neg (by omega)
  · exact if_pos (by omega)

/-- A word has an index exactly when its weight is one of four. -/
theorem romDec_ne_none_iff (w : Char13) :
    romDec w ≠ none ↔ weight w = 2 ∨ weight w = 5 ∨ weight w = 8 ∨ weight w = 11 := by
  have listed {x : Char13} (hx : weight x = 2 ∨ weight x = 5) : ∃ i ≤ 1364, romEnc i = x := by
    obtain ⟨i, hi, hval⟩ := List.mem_iff_getElem.mp (mem_encTable_of_weight hx)
    have hlen := Codeword.encTable_length
    exact ⟨i, by omega, BitVec.eq_of_toNat_eq ((romEnc_toNat hi).trans hval)⟩
  rw [Option.ne_none_iff_exists']
  constructor
  · rintro ⟨i, hi⟩
    rcases (romDec_eq_some_iff w i).mp hi with ⟨h, -⟩ | ⟨h, -⟩ <;> omega
  · intro h
    by_cases hlow : weight w = 2 ∨ weight w = 5
    · obtain ⟨i, hi, rfl⟩ := listed hlow
      exact ⟨i, (romDec_eq_some_iff _ i).mpr (.inl ⟨hlow, hi, rfl⟩)⟩
    · obtain ⟨i, hi, heq⟩ := listed (x := w ^^^ 0x1FFF) (by rw [weight_complement]; omega)
      exact ⟨i, (romDec_eq_some_iff w i).mpr (.inr ⟨by omega, hi, complement_inj.mp heq.symm⟩)⟩

/-- A valid word is the word of its index, complemented as its FCS bit says. -/
theorem eq_of_romDec {w : Char13} {i : Nat} (h : romDec w = some i) :
    i ≤ 1364 ∧ w = if romFcs w = 1 then romEnc i ^^^ 0x1FFF else romEnc i := by
  rcases (romDec_eq_some_iff w i).mp h with ⟨-, hi, rfl⟩ | ⟨-, hi, rfl⟩
  · exact ⟨hi, by rw [(romDec_romEnc hi).2.2.1]; rfl⟩
  · exact ⟨hi, by rw [(romDec_romEnc hi).2.2.2]; rfl⟩

theorem romFcs_of_romDec_none {w : Char13} (h : romDec w = none) : romFcs w = 0 :=
  if_neg fun hweight => (romDec_ne_none_iff w).mpr (by omega) h

/-- A single changed bit makes a valid word invalid: the four weights differ by multiples of 3. -/
theorem romDec_flip {w : Char13} (h : romDec w ≠ none) (b : Fin 13) :
    romDec (w ^^^ BitVec.twoPow 13 b) = none := by
  by_contra hflip
  have hw := (romDec_ne_none_iff _).mp h
  have hx := (romDec_ne_none_iff _).mp hflip
  have := weight_flip w b
  omega

/-- Settles O28. -/
theorem decodeTableInvertsEncodeTable : Obligations.DecodeTableInvertsEncodeTable :=
  ⟨fun _ hi => romDec_romEnc hi, fun _ _ h => eq_of_romDec h, fun _ h => romFcs_of_romDec_none h⟩

/-- Settles O29. -/
theorem validityIsByWeight : Obligations.ValidityIsByWeight :=
  ⟨romDec_ne_none_iff, fun _ hi => weight_romEnc_low hi, fun _ hlo hhi => weight_romEnc_high hlo hhi,
    fun _ b h => romDec_flip h b⟩

end Sys2Proof.Proofs.Tables
end

section
/-! SUPPORT. Rendering and gathering undo each other in a bijective layout (spec/44_layout.md rules
R162, R165, R166), and the commands `SYM.EMIT` and `SYM.PARSE`. -/

namespace Sys2Proof.Proofs.Symbols

open Sys2Proof Sys2Proof.Machine

set_option Elab.async false

/-! ### Bijective layouts (rule R162) -/

/-- The word bit of each half of a position. -/
def descPair (L : Layout) (p : Fin 65) : Fin 10 × Fin 13 := (L.descChar[p], L.descBit[p])
def ascPair (L : Layout) (p : Fin 65) : Fin 10 × Fin 13 := (L.ascChar[p], L.ascBit[p])

theorem pairs_eq (L : Layout) :
    L.pairs = (List.finRange 65).map (descPair L) ++ (List.finRange 65).map (ascPair L) := rfl

/-- Different halves have different word bits. -/
theorem bijective_iff (L : Layout) :
    L.Bijective ↔ Function.Injective (descPair L) ∧ Function.Injective (ascPair L) ∧
      ∀ p q, descPair L p ≠ ascPair L q := by
  rw [Layout.Bijective, pairs_eq, List.nodup_append, List.nodup_map_iff_inj_on (List.nodup_finRange 65),
    List.nodup_map_iff_inj_on (List.nodup_finRange 65)]
  simp [Function.Injective]

/-- Every word bit is that of some half: there are as many halves as bits. -/
theorem exists_half {L : Layout} (hL : L.Bijective) (x : Fin 10 × Fin 13) :
    (∃ p, descPair L p = x) ∨ ∃ p, ascPair L p = x := by
  have hcard : L.pairs.toFinset.card = Fintype.card (Fin 10 × Fin 13) := by
    rw [List.toFinset_card_of_nodup hL, pairs_eq]
    simp
  have hx : x ∈ L.pairs.toFinset := (Finset.card_eq_iff_eq_univ _).mp hcard ▸ Finset.mem_univ x
  simpa [pairs_eq] using hx

/-! ### Gathering and rendering -/

/-- The bit of a descender half is gathered from its own position alone. -/
theorem gather_desc {L : Layout} (hL : L.Bijective) (str : Vector Byte 65) (p : Fin 65) :
    (gather L str)[L.descChar[p]].getLsbD L.descBit[p] = dhalf str[p] := by
  obtain ⟨hdesc, -, hcross⟩ := (bijective_iff L).mp hL
  rw [Bool.eq_iff_iff, gather_getLsbD]
  simp only [halfBits_getLsbD]
  constructor
  · rintro ⟨q, ⟨hq, hc, hb⟩ | ⟨-, hc, hb⟩⟩
    · rwa [← hdesc (a₁ := q) (a₂ := p) (Prod.ext hc hb)]
    · exact absurd (Prod.ext hc.symm hb.symm) (hcross p q)
  · exact fun hp => ⟨p, .inl ⟨hp, rfl, rfl⟩⟩

/-- So is the bit of an ascender half. -/
theorem gather_asc {L : Layout} (hL : L.Bijective) (str : Vector Byte 65) (p : Fin 65) :
    (gather L str)[L.ascChar[p]].getLsbD L.ascBit[p] = ahalf str[p] := by
  obtain ⟨-, hasc, hcross⟩ := (bijective_iff L).mp hL
  rw [Bool.eq_iff_iff, gather_getLsbD]
  simp only [halfBits_getLsbD]
  constructor
  · rintro ⟨q, ⟨-, hc, hb⟩ | ⟨hq, hc, hb⟩⟩
    · exact absurd (Prod.ext hc hb) (hcross q p)
    · rwa [← hasc (a₁ := q) (a₂ := p) (Prod.ext hc hb)]
  · exact fun hp => ⟨p, .inr ⟨hp, rfl, rfl⟩⟩

/-- Rendering what was gathered gives the symbols back. -/
theorem render_gather {L : Layout} (hL : L.Bijective) {str : Vector Byte 65}
    (h : ∀ p : Fin 65, isSym str[p] = true) : render L (gather L str) = str := by
  refine Vector.ext fun i hi => ?_
  rw [render_getElem, symbolAt, gather_desc hL, gather_asc hL]
  exact symOf_halves (h ⟨i, hi⟩)

/-- Gathering what was rendered gives the words back. -/
theorem gather_render {L : Layout} (hL : L.Bijective) (w : Words) : gather L (render L w) = w := by
  have hbits : ∀ (i : Fin 10) (b : Fin 13), (gather L (render L w))[i].getLsbD b = w[i].getLsbD b := by
    intro i b
    rcases exists_half hL (i, b) with ⟨p, hp⟩ | ⟨p, hp⟩
    · obtain ⟨rfl, rfl⟩ := Prod.mk.inj hp
      rw [gather_desc hL, Fin.getElem_fin (render L w), render_getElem]
      exact dhalf_symOf ..
    · obtain ⟨rfl, rfl⟩ := Prod.mk.inj hp
      rw [gather_asc hL, Fin.getElem_fin (render L w), render_getElem]
      exact ahalf_symOf ..
  exact Vector.ext fun i hi => BitVec.eq_of_getLsbD_eq fun b hb => hbits ⟨i, hi⟩ ⟨b, hb⟩

/-- Different words render to different strings. -/
theorem render_injective {L : Layout} (hL : L.Bijective) {w w' : Words}
    (h : render L w = render L w') : w = w' := by
  rw [← gather_render hL w, h, gather_render hL]

theorem layout_bijective : layout.Bijective := Tests.test_witness_bijective

theorem isSym_render (L : Layout) (w : Words) (p : Fin 65) : isSym (render L w)[p] = true := by
  rw [Fin.getElem_fin, render_getElem]
  exact isSym_symOf ..

/-! ### The statements' symbols -/

theorem allSyms_iff (str : Vector Byte 65) :
    allSyms str ↔ ∀ p : Fin 65, isSym str[p] = true := by
  simp only [allSyms, isSym_iff, symA, symD, symF, symT]

theorem allSyms_render (L : Layout) (w : Words) : allSyms (render L w) :=
  (allSyms_iff _).mpr (isSym_render L w)

@[simp] theorem sym65_getElem (s : State) (p : Nat) (h : p < 65) : (sym65 s)[p] = s.sym[p] := by
  simp [sym65]

/-- The model's test of the first 65 entries is the statements' one. -/
theorem allSymbols_iff_allSyms (s : State) : allSymbols 65 s = true ↔ allSyms (sym65 s) := by
  rw [allSymbols_iff, allSyms_iff]
  constructor
  · intro h p
    rw [Fin.getElem_fin, sym65_getElem _ _ p.isLt]
    exact h ⟨p, by omega⟩ p.isLt
  · intro h p hp
    have := h ⟨p, hp⟩
    rwa [Fin.getElem_fin, sym65_getElem _ _ hp] at this

theorem allSymbols_iff_inputSymbols (s : State) :
    allSymbols s.len.toNat s = true ↔ inputSymbols s := by
  simp only [allSymbols_iff, inputSymbols, isSym_iff, symA, symD, symF, symT]

/-! ### The two commands -/

/-- The byte of rule R160's table. -/
theorem symOf_eq_byte (d a : Bool) :
    symOf d a = if d then (if a then 0x46 else 0x44) else (if a then 0x41 else 0x54) := by
  cases d <;> cases a <;> rfl

/-- Settles O30: `SYM.EMIT` renders, and a rendered byte is that of its halves. -/
theorem symEmitRendersTheWords : Obligations.SymEmitRendersTheWords := by
  refine ⟨by decide, fun s hf => ⟨_, Encoder.exec_symEmit hf, ?_, bufferOf_last _⟩⟩
  rintro p d a rfl rfl
  rw [bufferOf_getElem _ _ p.isLt, render_getElem, symbolAt, symOf_eq_byte]

theorem dhalf_iff (b : Byte) : dhalf b = true ↔ b = 0x44 ∨ b = 0x46 := by
  simp [dhalf, symD, symF]

theorem ahalf_iff (b : Byte) : ahalf b = true ↔ b = 0x41 ∨ b = 0x46 := by
  simp [ahalf, symA, symF]

/-- The three endings of `SYM.PARSE` on a core that is not faulted. -/
theorem exec_symParse_cases {s : State} (hf : s.status.fault = 0) :
    (s.len = 65 ∧ allSyms (sym65 s) ∧
      exec .symParse s = .next { s with status := .zero, w := gather layout (sym65 s) }) ∨
    (s.len ≠ 65 ∧ exec .symParse s = .next { s with status := decodingStatus 1 0 }) ∨
    (s.len = 65 ∧ ¬ allSyms (sym65 s) ∧
      exec .symParse s = .next { s with status := decodingStatus 2 0 }) := by
  rcases symParse_cases layout { s with status := .zero } with
    ⟨hlen, hsym, hrun⟩ | ⟨hlen, hrun⟩ | ⟨hlen, hsym, hrun⟩
  · exact .inl ⟨hlen, (allSymbols_iff_allSyms s).mp hsym, command_ok (body := symParse layout) hf hrun⟩
  · exact .inr (.inl ⟨hlen, command_raised (body := symParse layout) hf hrun⟩)
  · refine .inr (.inr ⟨hlen, fun h => ?_, command_raised (body := symParse layout) hf hrun⟩)
    exact absurd (((allSymbols_iff_allSyms s).mpr h).symm.trans hsym) (by decide)

/-- Settles O31: each clause leaves one ending, and the bits are `gather_desc` and `gather_asc`. -/
theorem symParseGathersTheHalves : Obligations.SymParseGathersTheHalves := by
  refine ⟨by decide, fun s hf => ?_⟩
  rcases exec_symParse_cases hf with ⟨hlen, hsym, hexec⟩ | ⟨hlen, hexec⟩ | ⟨hlen, hsym, hexec⟩
  · refine ⟨fun _ => ⟨_, hexec, fun p => ?_⟩, fun h => absurd hlen h, fun h => absurd hsym h.2⟩
    rw [gather_desc layout_bijective, gather_asc layout_bijective, dhalf_iff, ahalf_iff,
      Fin.getElem_fin (sym65 s), sym65_getElem _ _ p.isLt]
    exact ⟨Iff.rfl, Iff.rfl⟩
  · exact ⟨fun h => absurd h.1 hlen, fun _ => hexec, fun h => absurd h.1 hlen⟩
  · exact ⟨fun h => absurd h.2 hsym, fun h => absurd hlen h, fun _ => hexec⟩

end Sys2Proof.Proofs.Symbols
end

section
/-! SUPPORT. Runs that set `N` to a known value, and the mixed-radix arithmetic of the codewords
(spec/46_codewords.md rules R200, R204 to R208). -/

namespace Sys2Proof.Proofs.MixedRadix

open Sys2Proof Sys2Proof.Machine

set_option Elab.async false

/-! ### Runs that set `N` -/

/-- The run ends well, and of the registers of `s` it has changed `N` alone, to the value `v`. -/
def SetsN (v : Nat) (s : State) (r : Run) : Prop :=
  ∃ n : Limbs, r = .ok { s with n := n } ∧ val n = v

theorem SetsN.andThen {v v' : Nat} {s : State} {r : Run} {f : State → Run} (h : SetsN v s r)
    (hf : ∀ n, val n = v → SetsN v' { s with n := n } (f { s with n := n })) :
    SetsN v' s (r.andThen f) := by
  obtain ⟨n, rfl, hn⟩ := h
  exact hf n hn

theorem setsN_bnLdlo {v : Nat} (s : State) (hv : v < 2 ^ 22) : SetsN v s (bnLdlo v s) := by
  rcases bnLdlo_cases v s with ⟨-, n, hrun, hval, -⟩ | ⟨hge, -⟩
  · exact ⟨n, hrun, hval⟩
  · omega

theorem setsN_bnMuladd {v m a : Nat} {s : State} (hs : val s.n = v) (hv : v * m + a < 2 ^ 110) :
    SetsN (v * m + a) s (bnMuladd m a s) := by
  subst hs
  rcases bnMuladd_cases m a s with ⟨-, n, hrun, hval⟩ | ⟨hge, -⟩
  · exact ⟨n, hrun, hval⟩
  · exact absurd hge (Nat.not_le_of_lt hv)

theorem setsN_bnAdd {v k : Nat} {s : State} (hs : val s.n = v) (hv : v + k < 2 ^ 110) :
    SetsN (v + k) s (bnAdd k s) := by
  subst hs
  rcases bnAdd_cases k s with ⟨-, -, n, hrun, hval⟩ | ⟨hout, -⟩
  · exact ⟨n, hrun, by omega⟩
  · exact absurd ⟨by omega, by omega⟩ hout

/-! ### Mixed-radix digits (rule R200) -/

/-- The ten digits of a value: codeword 9 has radix 636, codewords 8 to 1 radix 1365, and codeword
0 is what is left. -/
def splitDigit (v : Nat) (i : Fin 10) : Nat :=
  if i = 9 then v % 636 else if i = 0 then v / (636 * 1365 ^ 8)
  else v / (636 * 1365 ^ (8 - i.val)) % 1365

/-- The value that ten digits make up. -/
def joinDigits (d : Fin 10 → Nat) : Nat :=
  mixedRadix [d 0, d 1, d 2, d 3, d 4, d 5, d 6, d 7, d 8] (d 9)

theorem joinDigits_splitDigit (v : Nat) : joinDigits (splitDigit v) = v := by
  have hturn : ∀ k, v / (636 * 1365 ^ (k + 1)) * 1365 + v / (636 * 1365 ^ k) % 1365 =
      v / (636 * 1365 ^ k) := by
    intro k
    rw [pow_succ, ← Nat.mul_assoc, ← Nat.div_div_eq_div_mul]
    exact Nat.div_add_mod' _ _
  have h0 : splitDigit v 0 = v / (636 * 1365 ^ 8) := rfl
  have h1 : splitDigit v 1 = v / (636 * 1365 ^ 7) % 1365 := rfl
  have h2 : splitDigit v 2 = v / (636 * 1365 ^ 6) % 1365 := rfl
  have h3 : splitDigit v 3 = v / (636 * 1365 ^ 5) % 1365 := rfl
  have h4 : splitDigit v 4 = v / (636 * 1365 ^ 4) % 1365 := rfl
  have h5 : splitDigit v 5 = v / (636 * 1365 ^ 3) % 1365 := rfl
  have h6 : splitDigit v 6 = v / (636 * 1365 ^ 2) % 1365 := rfl
  have h7 : splitDigit v 7 = v / (636 * 1365 ^ 1) % 1365 := rfl
  have h8 : splitDigit v 8 = v / (636 * 1365 ^ 0) % 1365 := rfl
  have h9 : splitDigit v 9 = v % 636 := rfl
  rw [joinDigits, mixedRadix, h0, h1, h2, h3, h4, h5, h6, h7, h8, h9]
  simp only [List.foldl_cons, List.foldl_nil, Nat.zero_mul, Nat.zero_add]
  calc _ = v / (636 * 1365 ^ 0) * 636 + v % 636 := by
        rw [hturn 7, hturn 6, hturn 5, hturn 4, hturn 3, hturn 2, hturn 1, hturn 0]
    _ = v := by
        rw [pow_zero, Nat.mul_one]
        exact Nat.div_add_mod' _ _

/-- The digits are in range exactly as rule R200 wants them, below the bound of the payloads. -/
theorem splitDigit_ranges {v : Nat} (h : v < splitBound) :
    splitDigit v 0 ≤ 658 ∧ splitDigit v 9 ≤ 635 ∧
      ∀ i : Fin 10, 1 ≤ i.val → i.val ≤ 8 → splitDigit v i ≤ 1364 := by
  refine ⟨?_, Nat.le_of_lt_succ (Nat.mod_lt v (by decide)), fun i hlo hhi => ?_⟩
  · exact Nat.le_of_lt_succ (Nat.div_lt_of_lt_mul (h.trans_eq (by decide)))
  · rw [splitDigit, if_neg (by omega), if_neg (by omega)]
    exact Nat.le_of_lt_succ (Nat.mod_lt _ (by decide))

/-- Digits of radix 1365 appended to a value are read off again by division. -/
theorem digit_of_foldl (l : List Nat) (hl : ∀ c ∈ l, c < 1365) (a : Nat) :
    l.foldl (fun v c => v * 1365 + c) a / 1365 ^ l.length = a ∧
      ∀ k (hk : k < l.length),
        l.foldl (fun v c => v * 1365 + c) a / 1365 ^ k % 1365 = l[l.length - 1 - k] := by
  induction l using List.reverseRecOn with
  | nil => simp
  | append_singleton l c ih =>
    obtain ⟨ihtop, ihdigit⟩ := ih fun x hx => hl x (List.mem_append_left _ hx)
    have hc : c < 1365 := hl c (by simp)
    have hdrop : ∀ k, (l.foldl (fun v c => v * 1365 + c) a * 1365 + c) / 1365 ^ (k + 1) =
        l.foldl (fun v c => v * 1365 + c) a / 1365 ^ k := by
      intro k
      rw [pow_succ', ← Nat.div_div_eq_div_mul]
      congr 1
      omega
    rw [List.foldl_append, List.foldl_cons, List.foldl_nil]
    refine ⟨by rw [List.length_append, List.length_singleton, hdrop, ihtop], fun k hk => ?_⟩
    rw [List.length_append, List.length_singleton] at hk
    cases k with
    | zero =>
      rw [pow_zero, Nat.div_one, Nat.mul_add_mod_self_right, Nat.mod_eq_of_lt hc]
      simp
    | succ k =>
      have hidx : (l ++ [c]).length - 1 - (k + 1) = l.length - 1 - k := by simp; omega
      rw [hdrop, ihdigit k (by omega), getElem_congr_idx hidx, List.getElem_append_left]

/-- Digits in range are the digits of the value they make up, which is below the bound. -/
theorem splitDigit_joinDigits {d : Fin 10 → Nat} (h0 : d 0 ≤ 658) (h9 : d 9 ≤ 635)
    (hd : ∀ i : Fin 10, 1 ≤ i.val → i.val ≤ 8 → d i ≤ 1364) :
    joinDigits d < splitBound ∧ ∀ i, splitDigit (joinDigits d) i = d i := by
  obtain ⟨htop, hdigit⟩ := digit_of_foldl [d 1, d 2, d 3, d 4, d 5, d 6, d 7, d 8] (by
    have := fun i hlo hhi => Nat.lt_succ_of_le (hd i hlo hhi)
    simp only [List.mem_cons, List.not_mem_nil, or_false]
    rintro c (rfl | rfl | rfl | rfl | rfl | rfl | rfl | rfl) <;> exact this _ (by decide) (by decide))
    (d 0)
  generalize hx : [d 1, d 2, d 3, d 4, d 5, d 6, d 7, d 8].foldl (fun v c => v * 1365 + c) (d 0) = x
    at htop hdigit
  have hjoin : joinDigits d = x * 636 + d 9 := by simp [← hx, joinDigits, mixedRadix]
  have hdiv : ∀ k, joinDigits d / (636 * 1365 ^ k) = x / 1365 ^ k := by
    intro k
    rw [← Nat.div_div_eq_div_mul, hjoin]
    congr 1
    omega
  refine ⟨?_, fun i => ?_⟩
  · have hlt : x < 659 * 1365 ^ 8 := by
      rw [← Nat.div_lt_iff_lt_mul (by decide)]
      exact htop.trans_lt (Nat.lt_succ_of_le h0)
    rw [hjoin, splitBound]
    omega
  · unfold splitDigit
    split_ifs with hi9 hi0
    · rw [hi9, hjoin]; omega
    · rw [hi0, hdiv]; exact htop
    · have hi : 1 ≤ i.val ∧ i.val ≤ 8 := by omega
      rw [hdiv, hdigit (8 - i.val) (by simp only [List.length_cons, List.length_nil]; omega)]
      obtain ⟨i, hilt⟩ := i
      simp only at hi
      obtain ⟨hlo, hhi⟩ := hi
      interval_cases i <;> rfl

/-- The codewords of rule R201 from the digits. -/
theorem codewordOf_eq (v : Nat) (f : BitVec 11) (i : Fin 10) :
    codewordOf v f i =
      if i = 9 then 2 * splitDigit v i
      else if i = 0 then splitDigit v i + (if f.getLsbD 10 then 659 else 0) else splitDigit v i := by
  unfold codewordOf splitDigit
  split_ifs <;> rfl

end Sys2Proof.Proofs.MixedRadix
end

section
/-! SUPPORT. `CW.SPLIT` and `CW.JOIN` exactly, and the words of a payload (spec/46_codewords.md rules
R200 to R208). -/

namespace Sys2Proof.Proofs.Chain

open Sys2Proof Sys2Proof.Machine Sys2Proof.Proofs.MixedRadix

set_option Elab.async false

/-! ### `CW.SPLIT` (rule R204) -/

theorem toNat_codeword_of_mod (x : Nat) : (BitVec.ofNat 11 (x % 1365)).toNat = x % 1365 := by
  have : x % 1365 < 1365 := Nat.mod_lt _ (by decide)
  rw [BitVec.toNat_ofNat]
  omega

/-- The loop of the split, digit by digit: turn `k` writes digit `k` of radix 1365 and keeps the
quotient. -/
theorem splitLoop_digits (l : List (Fin 10)) (hl : l.Nodup) (s : State) :
    ∃ (n : Limbs) (res : BitVec 32) (cw : Codewords),
      forEach l takeCodeword s = .ok { s with n := n, res := res, cw := cw } ∧
      val n = val s.n / 1365 ^ l.length ∧
      (∀ k, k + 1 = l.length → res.toNat = val s.n / 1365 ^ k % 1365) ∧
      (∀ (k : Nat) (j : Fin 10), l[k]? = some j → cw[j].toNat = val s.n / 1365 ^ k % 1365) ∧
      ∀ j : Fin 10, j ∉ l → cw[j] = s.cw[j] := by
  induction l generalizing s with
  | nil => exact ⟨s.n, s.res, s.cw, rfl, by simp, by simp, by simp, fun _ _ => rfl⟩
  | cons i rest ih =>
    obtain ⟨hi, hrest⟩ := List.nodup_cons.mp hl
    obtain ⟨n0, hn0, hturn⟩ := takeCodeword_eq i s
    obtain ⟨n, res, cw, hrun, hn, hres, hcw, hkeep⟩ := ih hrest { s with
      n := n0, res := BitVec.ofNat 32 (val s.n % 1365)
      cw := s.cw.set i (BitVec.ofNat 11 (val s.n % 1365)) }
    have hdiv : ∀ k, val n0 / 1365 ^ k = val s.n / 1365 ^ (k + 1) := by
      intro k
      rw [hn0, Nat.div_div_eq_div_mul, pow_succ']
    simp only [hdiv] at hn hres hcw
    refine ⟨n, res, cw, by rw [forEach_cons, hturn, Run.andThen_ok, hrun], hn, fun k hk => ?_,
      fun k j hk => ?_, fun j hj => ?_⟩
    · cases k with
      | zero =>
        have hnil : rest = [] := List.eq_nil_of_length_eq_zero (Nat.succ.inj hk).symm
        subst hnil
        cases hrun
        have : val s.n % 1365 < 1365 := Nat.mod_lt _ (by decide)
        rw [BitVec.toNat_ofNat, pow_zero, Nat.div_one]
        omega
      | succ k => exact hres k (Nat.succ.inj hk)
    · cases k with
      | zero =>
        obtain rfl : i = j := Option.some.inj hk
        rw [pow_zero, Nat.div_one]
        exact ((congrArg BitVec.toNat (hkeep i hi)).trans
          (congrArg BitVec.toNat (Encoder.set_getElem_same s.cw i _))).trans
          (toNat_codeword_of_mod _)
      | succ k => exact hcw k j hk
    · obtain ⟨hji, hjr⟩ := List.ne_and_not_mem_of_not_mem_cons hj
      rw [hkeep j hjr]
      exact Encoder.set_getElem_other s.cw _ hji

theorem limbsVal_append (l l' : List Limb) :
    limbsVal (l ++ l') = limbsVal l * 2048 ^ l'.length + limbsVal l' := by
  induction l with
  | nil => simp
  | cons x l ih =>
    rw [List.cons_append, limbsVal_cons, limbsVal_cons, ih, List.length_append, pow_add]
    ring

/-- The residue is the value, when the value fits two limbs. -/
theorem residue_eq_val {n : Limbs} (h : val n < 2 ^ 22) : residue n = val n := by
  have hdrop : n.toList.drop 8 = [n[8], n[9]] := by
    refine List.ext_getElem (by simp) fun i _ hi => ?_
    have hcases : i = 0 ∨ i = 1 := Nat.le_one_iff_eq_zero_or_eq_one.mp (Nat.le_of_lt_succ hi)
    rcases hcases with rfl | rfl <;> simp
  have hres : residue n = limbsVal [n[8], n[9]] := by
    rw [residue, ← Nat.shiftLeft_add_eq_or_of_lt n[9].isLt, Nat.shiftLeft_eq]
    simp [limbsVal_cons]
  have hsplit := limbsVal_append (n.toList.take 8) (n.toList.drop 8)
  rw [List.take_append_drop, hdrop, ← hres] at hsplit
  have hval : val n = limbsVal (n.toList.take 8) * 2048 ^ 2 + residue n := hsplit
  omega

/-- The quotient that the split leaves fits two limbs. -/
theorem quotient_lt (n : Limbs) : val n / (636 * 1365 ^ 8) < 2 ^ 22 :=
  Nat.div_lt_of_lt_mul ((val_lt n).trans (by decide))

theorem toNat_shifted_remainder (v : Nat) :
    ((BitVec.ofNat 32 (v % 636) <<< 1).setWidth 11).toNat = 2 * (v % 636) := by
  have hlt : v % 636 < 636 := Nat.mod_lt _ (by decide)
  simp only [BitVec.toNat_setWidth, BitVec.toNat_shiftLeft, BitVec.toNat_ofNat, Nat.shiftLeft_eq]
  omega

/-- The place of codeword `j` in the loop's order. -/
theorem getElem?_loopOrder : ∀ j : Fin 10, 1 ≤ j.val → j.val ≤ 8 →
    ([8, 7, 6, 5, 4, 3, 2, 1] : List (Fin 10))[8 - j.val]? = some j := by
  decide

/-- Codeword 0 with the offset that FCS bit 10 asks for (rule R201). -/
def offsetCodeword (fcs : BitVec 11) (r : Nat) : BitVec 11 :=
  BitVec.ofNat 11 (if fcs.getLsbD 10 then r + 659 else r)

theorem toNat_offsetCodeword (fcs : BitVec 11) {r : Nat} (h : r ≤ 658) :
    (offsetCodeword fcs r).toNat = r + (if fcs.getLsbD 10 then 659 else 0) := by
  rw [offsetCodeword, BitVec.toNat_ofNat]
  split_ifs <;> omega

/-- Writing codeword 0 changes that codeword alone. -/
theorem set_zero_getElem (cw : Codewords) (x : BitVec 11) (i : Fin 10) :
    (cw.set 0 x)[i] = if i = 0 then x else cw[i] := by
  split_ifs with hi
  · subst hi
    exact Encoder.set_getElem_same cw 0 x
  · exact Encoder.set_getElem_other cw x hi

/-- What `CW.SPLIT` has done before it looks at the residue. -/
theorem cwSplit_loop (s : State) :
    ∃ (n : Limbs) (res : BitVec 32) (cw : Codewords),
      cwSplit s = (if residue n > 658 then
          .raised (.fault .operandRange) { s with n := n, res := res, cw := cw }
        else .ok { s with n := n, res := res, cw := cw.set 0 (offsetCodeword s.fcs (residue n)) }) ∧
      residue n = splitDigit (val s.n) 0 ∧ val n = splitDigit (val s.n) 0 ∧
      res.toNat = splitDigit (val s.n) 1 ∧ cw[(9 : Fin 10)].toNat = 2 * splitDigit (val s.n) 9 ∧
      (∀ i : Fin 10, 1 ≤ i.val → i.val ≤ 8 → cw[i].toNat = splitDigit (val s.n) i) ∧
      cw[(0 : Fin 10)] = s.cw[(0 : Fin 10)] := by
  obtain ⟨-, n0, hdiv, hn0⟩ | ⟨h0, -⟩ := bnDivmod_cases 636 s
  case inr => cases h0
  obtain ⟨n, res, cw, hloop, hn, hres, hcw, hkeep⟩ :=
    splitLoop_digits [8, 7, 6, 5, 4, 3, 2, 1] (by decide) { s with
      n := n0, res := BitVec.ofNat 32 (val s.n % 636)
      cw := s.cw.set 9 ((BitVec.ofNat 32 (val s.n % 636) <<< 1).setWidth 11) }
  have hquot : ∀ k, val n0 / 1365 ^ k = val s.n / (636 * 1365 ^ k) := by
    intro k
    rw [hn0, Nat.div_div_eq_div_mul]
  simp only [hquot] at hn hres hcw
  have hresidue : residue n = val n := residue_eq_val (by rw [hn]; exact quotient_lt s.n)
  refine ⟨n, res, cw, ?_, hresidue.trans hn, hn, hres 7 rfl, ?_, fun i hlo hhi => ?_,
    (hkeep 0 (by decide)).trans (Encoder.set_getElem_other s.cw (i := 9) (j := 0) _ (by decide))⟩
  · rw [cwSplit, hdiv, Run.andThen_ok, hloop, Run.andThen_ok]
    rfl
  · rw [hkeep 9 (by decide)]
    exact (congrArg BitVec.toNat (Encoder.set_getElem_same s.cw 9 _)).trans
      (toNat_shifted_remainder _)
  · rw [hcw _ i (getElem?_loopOrder i hlo hhi), splitDigit, if_neg (by omega), if_neg (by omega)]

/-- `CW.SPLIT` below the bound (rule R204): the codewords of the value. -/
theorem cwSplit_below {s : State} (h : val s.n < splitBound) :
    ∃ (n : Limbs) (res : BitVec 32) (cw : Codewords),
      cwSplit s = .ok { s with n := n, res := res, cw := cw } ∧
      val n = splitDigit (val s.n) 0 ∧ res.toNat = splitDigit (val s.n) 1 ∧
      ∀ i : Fin 10, cw[i].toNat = codewordOf (val s.n) s.fcs i := by
  obtain ⟨n, res, cw, hrun, hresidue, hn, hres, h9, hcw, -⟩ := cwSplit_loop s
  have h0 := (splitDigit_ranges h).1
  refine ⟨n, res, _, by rw [hrun, if_neg (by omega)], hn, hres, fun i => ?_⟩
  rw [codewordOf_eq, set_zero_getElem]
  by_cases hi0 : i = 0
  · rw [if_pos hi0, hresidue, toNat_offsetCodeword s.fcs h0, hi0]
    rfl
  · rw [if_neg hi0, if_neg hi0]
    split_ifs with hi9
    · rw [hi9, h9]
    · exact hcw i (by omega) (by omega)

/-- `CW.SPLIT` from the bound on: the residue is out of range. -/
theorem cwSplit_above {s : State} (h : splitBound ≤ val s.n) :
    ∃ (n : Limbs) (res : BitVec 32) (cw : Codewords),
      cwSplit s = .raised (.fault .operandRange) { s with n := n, res := res, cw := cw } ∧
      cw[(0 : Fin 10)] = s.cw[(0 : Fin 10)] := by
  obtain ⟨n, res, cw, hrun, hresidue, -, -, -, -, hkeep⟩ := cwSplit_loop s
  have h0 : 659 ≤ splitDigit (val s.n) 0 :=
    (Nat.le_div_iff_mul_le (by decide)).mpr (le_trans (by decide) h)
  exact ⟨n, res, cw, by rw [hrun, if_pos (by omega)], hkeep⟩

/-- Settles O39: the digits are `splitDigit`. -/
theorem splitGivesMixedRadixDigits : Obligations.SplitGivesMixedRadixDigits := by
  refine ⟨by decide, fun s hf => ⟨fun h => ?_, fun h => ?_⟩⟩
  · obtain ⟨n, res, cw, hrun, hn, hres, hcw⟩ := cwSplit_below (s := { s with status := .zero }) h
    obtain ⟨h0, h9, hd⟩ := splitDigit_ranges h
    refine ⟨n, res, cw, splitDigit (val s.n), command_ok (body := cwSplit) hf hrun,
      (joinDigits_splitDigit _).symm, h0, fun i hlo hhi => ⟨hd i hlo hhi, ?_⟩, h9, ?_, ?_, hn, hres⟩
    · rw [hcw, codewordOf_eq, if_neg (by omega), if_neg (by omega)]
    · exact (hcw 9).trans (codewordOf_eq ..)
    · exact (hcw 0).trans (codewordOf_eq ..)
  · obtain ⟨n, res, cw, hrun, hkeep⟩ := cwSplit_above (s := { s with status := .zero }) h
    exact ⟨n, res, cw, command_raised (body := cwSplit) hf hrun, hkeep⟩

/-! ### `CW.JOIN` (rule R207) -/

/-- The loop of the join appends digits of radix 1365; eleven-bit codewords keep it in range. -/
theorem setsN_joinLoop (l : List (Fin 10)) {v : Nat} (s : State) (hs : val s.n = v)
    (hv : (v + 2) * 1365 ^ l.length ≤ 2 ^ 110) :
    SetsN (l.foldl (fun v i => v * 1365 + s.cw[i].toNat) v) s
      (forEach l (fun (i : Fin 10) s => bnMuladd 1365 s.cw[i].toNat s) s) := by
  induction l generalizing v s with
  | nil => exact ⟨s.n, rfl, hs⟩
  | cons i rest ih =>
    have hc := limb_lt s.cw[i]
    rw [List.length_cons, pow_succ'] at hv
    have hpow : 1 ≤ 1365 ^ rest.length := Nat.one_le_pow _ _ (by decide)
    have hnext : (v * 1365 + s.cw[i].toNat + 2) * 1365 ^ rest.length ≤ 2 ^ 110 := by
      refine le_trans (Nat.mul_le_mul_right _ ?_) (Nat.mul_assoc .. ▸ hv)
      omega
    have hlt : v * 1365 + s.cw[i].toNat < 2 ^ 110 := by
      have := le_trans (Nat.le_mul_of_pos_right _ hpow) hnext
      omega
    exact (setsN_bnMuladd hs hlt).andThen fun n hn => ih { s with n := n } hn hnext

/-- `CW.JOIN` computes the value of the ten codeword registers. -/
theorem setsN_cwJoin (s : State) :
    SetsN (joinDigits fun i => s.cw[i].toNat) s (cwJoin s) ∧
      joinDigits (fun i => s.cw[i].toNat) < 2 ^ 104 := by
  have hcw : ∀ i : Fin 10, s.cw[i].toNat < 2048 := fun i => limb_lt s.cw[i]
  have hbound : joinDigits (fun i => s.cw[i].toNat) < 2 ^ 104 := by
    have h0 := hcw 0
    have h1 := hcw 1
    have h2 := hcw 2
    have h3 := hcw 3
    have h4 := hcw 4
    have h5 := hcw 5
    have h6 := hcw 6
    have h7 := hcw 7
    have h8 := hcw 8
    have h9 := hcw 9
    simp only [joinDigits, mixedRadix, List.foldl_cons, List.foldl_nil]
    omega
  refine ⟨?_, hbound⟩
  have hjoin : joinDigits (fun i => s.cw[i].toNat) =
      ([1, 2, 3, 4, 5, 6, 7, 8] : List (Fin 10)).foldl (fun v i => v * 1365 + s.cw[i].toNat)
        s.cw[(0 : Fin 10)].toNat * 636 + s.cw[(9 : Fin 10)].toNat := by
    simp [joinDigits, mixedRadix]
  rw [hjoin] at hbound ⊢
  refine (setsN_bnLdlo s (by have := hcw 0; exact this.trans (by decide))).andThen fun n hn => ?_
  refine (setsN_joinLoop _ { s with n := n } hn ?_).andThen fun m hm => ?_
  · have := hcw 0
    simp only [List.length_cons, List.length_nil]
    exact (Nat.mul_le_mul_right _ (Nat.add_le_add_right this.le 2)).trans (by decide)
  · exact setsN_bnMuladd hm (hbound.trans (by decide))

/-- Settles O42. -/
theorem joinIsTheMixedRadixValue : Obligations.JoinIsTheMixedRadixValue := by
  refine ⟨by decide, fun s hf => ?_⟩
  obtain ⟨⟨n, hrun, hn⟩, hlt⟩ := setsN_cwJoin { s with status := .zero }
  exact ⟨n, command_ok (body := cwJoin) hf hrun, hn, hn ▸ hlt⟩

end Sys2Proof.Proofs.Chain
end

section
/-! SUPPORT. The words of a value and a frame-check sequence: what `CW.MAP` makes of a split value is
what `CW.UNMAP` accepts (spec/46_codewords.md rules R205 to R208). -/

namespace Sys2Proof.Proofs.PayloadWords

open Sys2Proof Sys2Proof.Machine Sys2Proof.Proofs.MixedRadix

set_option Elab.async false

/-- The ten words of a value with a frame-check sequence. -/
def wordsOf (v : Nat) (f : BitVec 11) : Words :=
  Vector.ofFn fun i => romEnc (codewordOf v f i) ^^^ (if f.getLsbD i then 0x1FFF else 0)

theorem wordsOf_getElem (v : Nat) (f : BitVec 11) (i : Fin 10) :
    (wordsOf v f)[i] = romEnc (codewordOf v f i) ^^^ (if f.getLsbD i then 0x1FFF else 0) := by
  rw [wordsOf, Fin.getElem_fin, Vector.getElem_ofFn]

/-- The statements' words of a payload are the words of its value and its FCS. -/
theorem wordsOfPayload_eq (n : Limbs) : wordsOfPayload n = wordsOf (val n) (fcsOf n) := by
  refine Vector.ext fun i hi => ?_
  simp only [wordsOfPayload, wordsOf, Vector.getElem_ofFn]
  split_ifs
  · rfl
  · exact BitVec.xor_zero.symm

/-! ### From the value to the words -/

theorem codewordOf_ranges {v : Nat} (h : v < splitBound) (f : BitVec 11) :
    codewordOf v f 0 ≤ 1317 ∧ codewordOf v f 9 ≤ 1270 ∧ codewordOf v f 9 % 2 = 0 ∧
      ∀ i, codewordOf v f i ≤ 1364 := by
  obtain ⟨h0, h9, hd⟩ := splitDigit_ranges h
  have e0 : codewordOf v f 0 = splitDigit v 0 + (if f.getLsbD 10 then 659 else 0) :=
    codewordOf_eq v f 0
  have e9 : codewordOf v f 9 = 2 * splitDigit v 9 := codewordOf_eq v f 9
  have hoffset : (if f.getLsbD 10 then 659 else 0) ≤ 659 := by split_ifs <;> omega
  refine ⟨by omega, by omega, by omega, fun i => ?_⟩
  by_cases hi9 : i = 9
  · rw [hi9]; omega
  · by_cases hi0 : i = 0
    · rw [hi0]; omega
    · rw [codewordOf_eq, if_neg hi9, if_neg hi0]
      exact hd i (by omega) (by omega)

/-- A word of a codeword has the codeword as its index and the FCS bit as its table bit. -/
theorem romDec_word {c : Nat} (h : c ≤ 1364) (bit : Bool) :
    romDec (romEnc c ^^^ (if bit then 0x1FFF else 0)) = some c ∧
      romFcs (romEnc c ^^^ (if bit then 0x1FFF else 0)) = if bit then 1 else 0 := by
  obtain ⟨hplain, hcomplement, hfcs, hfcsc⟩ := Tables.romDec_romEnc h
  cases bit
  · rw [if_neg Bool.false_ne_true, if_neg Bool.false_ne_true]
    have hzero : romEnc c ^^^ 0 = romEnc c := BitVec.xor_zero
    rw [hzero]
    exact ⟨hplain, hfcs⟩
  · exact ⟨hcomplement, hfcsc⟩

section Below

variable {v : Nat} (f : BitVec 11) (h : v < splitBound)

include h

theorem romDec_wordsOf (i : Fin 10) : romDec (wordsOf v f)[i] = some (codewordOf v f i) := by
  rw [wordsOf_getElem]
  exact (romDec_word ((codewordOf_ranges h f).2.2.2 i) _).1

theorem romFcs_wordsOf (i : Fin 10) :
    romFcs (wordsOf v f)[i] = if f.getLsbD i then 1 else 0 := by
  rw [wordsOf_getElem]
  exact (romDec_word ((codewordOf_ranges h f).2.2.2 i) _).2

/-- The codewords that the words hold are the digits of the value. -/
theorem unmapped_wordsOf (i : Fin 10) : (unmapped (wordsOf v f))[i].toNat = splitDigit v i := by
  have h0 := (splitDigit_ranges h).1
  rw [Codeword.unmapped_toNat (romDec_wordsOf f h i), codewordOf_eq]
  by_cases hi9 : i = 9
  · rw [if_pos hi9, if_pos hi9]; omega
  · rw [if_neg hi9, if_neg hi9]
    by_cases hi0 : i = 0
    · rw [if_pos hi0, hi0]
      split_ifs <;> omega
    · rw [if_neg hi0, if_neg fun hc => hi0 hc.1]

/-- The frame-check sequence that the words hold is the one that was folded in. -/
theorem unmappedFcs_wordsOf : unmappedFcs (wordsOf v f) = f := by
  refine BitVec.eq_of_getLsbD_eq fun k hk => ?_
  by_cases hk10 : k = 10
  · have h0 := (splitDigit_ranges h).1
    have e0 : codewordOf v f 0 = splitDigit v 0 + (if f.getLsbD 10 then 659 else 0) :=
      codewordOf_eq v f 0
    rw [hk10, Codeword.unmappedFcs_getLsbD_ten,
      Codeword.wordIndex_of_romDec (romDec_wordsOf f h 0), e0]
    cases f.getLsbD 10
    · exact decide_eq_false (by simp; omega)
    · exact decide_eq_true (by simp)
  · have hfin := Codeword.unmappedFcs_getLsbD_fin (wordsOf v f) ⟨k, by omega⟩
    rw [romFcs_wordsOf f h] at hfin
    rw [hfin]
    cases f.getLsbD k <;> rfl

/-- `CW.UNMAP` accepts the words of a value. -/
theorem cwUnmap_wordsOf {s : State} (hw : s.w = wordsOf v f) :
    cwUnmap s = .ok { s with cw := unmapped s.w, fcsr := f } := by
  obtain ⟨hr0, hr9, heven, -⟩ := codewordOf_ranges h f
  have hvalid : anyInvalid s.w = false :=
    (anyInvalid_eq_false_iff _).mpr fun i => ⟨_, hw ▸ romDec_wordsOf f h i⟩
  have h0 : wordIndex s.w 0 = codewordOf v f 0 :=
    Codeword.wordIndex_of_romDec (hw ▸ romDec_wordsOf f h 0)
  have h9 : wordIndex s.w 9 = codewordOf v f 9 :=
    Codeword.wordIndex_of_romDec (hw ▸ romDec_wordsOf f h 9)
  rcases cwUnmap_cases s with ⟨hinv, -⟩ | ⟨-, hr, -⟩ | ⟨-, -, -, hodd, -⟩ | ⟨-, -, -, -, hrun⟩
  · exact absurd (hvalid.symm.trans hinv) (by decide)
  · omega
  · omega
  · rw [hrun, hw, unmappedFcs_wordsOf f h]

end Below

/-- `CW.JOIN` of the digits of a value restores it. -/
theorem setsN_cwJoin_digits {v : Nat} {s : State} (hcw : ∀ i : Fin 10, s.cw[i].toNat = splitDigit v i) :
    SetsN v s (cwJoin s) := by
  have hjoin := (Chain.setsN_cwJoin s).1
  rwa [funext hcw, joinDigits_splitDigit] at hjoin

/-! ### From the words to the value -/

/-- Words that `CW.UNMAP` accepts are the words of the value that their codewords make up. -/
theorem exists_wordsOf {w : Words} (hvalid : anyInvalid w = false) (h0 : wordIndex w 0 ≤ 1317)
    (h9 : wordIndex w 9 ≤ 1270) (heven : wordIndex w 9 % 2 = 0) :
    ∃ v < splitBound, w = wordsOf v (unmappedFcs w) ∧
      ∀ i : Fin 10, (unmapped w)[i].toNat = splitDigit v i := by
  have hindex : ∀ i : Fin 10, romDec w[i] = some (wordIndex w i) := fun i => by
    obtain ⟨c, hc⟩ := (anyInvalid_eq_false_iff w).mp hvalid i
    rw [hc, Codeword.wordIndex_of_romDec hc]
  have hle : ∀ i : Fin 10, wordIndex w i ≤ 1364 := fun i =>
    Nat.le_of_lt_succ (Codeword.romDec_lt (hindex i))
  have hd : ∀ i : Fin 10, (unmapped w)[i].toNat =
      if i = 9 then wordIndex w i / 2
      else if i = 0 ∧ 659 ≤ wordIndex w i then wordIndex w i - 659 else wordIndex w i :=
    fun i => Codeword.unmapped_toNat (hindex i)
  obtain ⟨hlt, hdigit⟩ := splitDigit_joinDigits (d := fun i => (unmapped w)[i].toNat)
    (by refine (hd 0).trans_le ?_; rw [if_neg (by decide)]; split_ifs <;> omega)
    (by refine (hd 9).trans_le ?_; rw [if_pos rfl]; omega)
    (fun i hlo hhi => by
      rw [hd, if_neg (by omega), if_neg (by omega)]
      exact hle i)
  refine ⟨_, hlt, Vector.ext fun i hi => ?_, fun i => (hdigit i).symm⟩
  have hcode : codewordOf (joinDigits fun i => (unmapped w)[i].toNat) (unmappedFcs w) ⟨i, hi⟩ =
      wordIndex w ⟨i, hi⟩ := by
    rw [codewordOf_eq, hdigit, Codeword.unmappedFcs_getLsbD_ten, hd]
    by_cases hi9 : (⟨i, hi⟩ : Fin 10) = 9
    · rw [if_pos hi9, if_pos hi9, hi9]; omega
    · rw [if_neg hi9, if_neg hi9]
      by_cases hi0 : (⟨i, hi⟩ : Fin 10) = 0
      · rw [if_pos hi0, hi0]
        by_cases hge : 659 ≤ wordIndex w 0 <;> simp [hge]
      · rw [if_neg hi0, if_neg fun hc => hi0 hc.1]
  have hword := (Tables.eq_of_romDec (hindex ⟨i, hi⟩)).2
  have hbit := Codeword.unmappedFcs_getLsbD_fin w ⟨i, hi⟩
  rw [show (wordsOf _ (unmappedFcs w))[i] = _ from wordsOf_getElem _ _ ⟨i, hi⟩, hcode, hbit]
  refine hword.trans ?_
  by_cases hfcs : romFcs w[(⟨i, hi⟩ : Fin 10)] = 1
  · rw [if_pos hfcs, if_pos (by simpa using hfcs)]
  · rw [if_neg hfcs, if_neg (by simpa using hfcs)]
    exact BitVec.xor_zero.symm

/-- Different values below the bound have different words. -/
theorem wordsOf_injective {v v' : Nat} {f f' : BitVec 11} (h : v < splitBound) (h' : v' < splitBound)
    (heq : wordsOf v f = wordsOf v' f') : v = v' := by
  have hdigit : splitDigit v = splitDigit v' := funext fun i => by
    rw [← unmapped_wordsOf f h, heq, unmapped_wordsOf f' h']
  rw [← joinDigits_splitDigit v, hdigit, joinDigits_splitDigit]

/-! ### The four commands one after the other (rule R208) -/

/-- What `CW.MAP` writes when the codewords are those of a value. -/
theorem mapWords_eq {v : Nat} {f : BitVec 11} {cw : Codewords}
    (hcw : ∀ i : Fin 10, cw[i].toNat = codewordOf v f i) :
    (Vector.ofFn fun i => mapWord cw f i) = wordsOf v f := by
  refine Vector.ext fun i hi => ?_
  rw [Vector.getElem_ofFn, Codeword.mapWord_eq_xor, hcw, wordsOf, Vector.getElem_ofFn]

theorem exec_cwUnmap_of_run {s t : State} (hf : s.status.fault = 0)
    (h : cwUnmap { s with status := .zero } = .ok t) : exec .cwUnmap s = .next t :=
  command_ok (body := cwUnmap) hf h

theorem exec_cwJoin_of_run {s t : State} (hf : s.status.fault = 0)
    (h : cwJoin { s with status := .zero } = .ok t) : exec .cwJoin s = .next t :=
  command_ok (body := cwJoin) hf h

/-- Settles O43: the codewords of the value, its words, and back by `cwUnmap_wordsOf` and
`setsN_cwJoin_digits`. -/
theorem codewordChainRestoresThePayload : Obligations.CodewordChainRestoresThePayload := by
  intro s hf hlt
  obtain ⟨n, res, cw, hsplit, -, -, hcw⟩ := Chain.cwSplit_below (s := { s with status := .zero }) hlt
  have hle : ∀ i : Fin 10, cw[i].toNat ≤ 1364 := fun i =>
    (hcw i).trans_le ((codewordOf_ranges hlt s.fcs).2.2.2 i)
  have hmap := Codeword.exec_cwMap_of_le
    (s := { s with status := .zero, n := n, res := res, cw := cw }) rfl hle
  rw [mapWords_eq hcw] at hmap
  have hunmap := cwUnmap_wordsOf s.fcs hlt (s := { s with
    status := .zero, n := n, res := res, cw := cw, w := wordsOf (val s.n) s.fcs }) rfl
  obtain ⟨m, hjoin, hm⟩ := setsN_cwJoin_digits (s := { s with
    status := .zero, n := n, res := res, cw := unmapped (wordsOf (val s.n) s.fcs), fcsr := s.fcs
    w := wordsOf (val s.n) s.fcs }) (unmapped_wordsOf s.fcs hlt)
  exact ⟨_, _, _, _, command_ok (body := cwSplit) hf hsplit, hmap,
    exec_cwUnmap_of_run rfl hunmap, exec_cwJoin_of_run rfl hjoin, rfl,
    val_injective hm, rfl, rfl⟩

end Sys2Proof.Proofs.PayloadWords
end

section
/-! SUPPORT. `PAY.PACK` exactly (spec/45_payload.md rules R180 to R183), and the barcode that `ENCODE`
writes (spec/47_encode.md). -/

namespace Sys2Proof.Proofs.Pack

open Sys2Proof Sys2Proof.Machine Sys2Proof.Proofs.MixedRadix

set_option Elab.async false

/-! ### The report of an invalid record (rules R181, R182) -/

/-- The first of a list of conditions that fails, 0 when none does. -/
def firstFailing : List (BitVec 4 × Bool) → BitVec 4
  | [] => 0
  | t :: rest => if t.2 then firstFailing rest else t.1

theorem firstFailure_eq (r : Record) : firstFailure r = firstFailing (validityTests r) := by
  unfold firstFailure
  induction validityTests r with
  | nil => rfl
  | cons t rest ih =>
    obtain ⟨c, b⟩ := t
    cases b
    · rfl
    · exact ih

/-- The code that a run of tests reports. -/
def reportCode (e : Option ValReason) : BitVec 4 :=
  match e with
  | none => 0
  | some v => v.code

/-- A test that reports when it fails, against the condition of that code. -/
theorem reportCode_test {c : Prop} [Decidable c] {e : ValReason} {x : Option ValReason} {b : Bool}
    {rest : List (BitVec 4 × Bool)} (hc : c ↔ ¬ b = true)
    (hrest : reportCode x = firstFailing rest) :
    reportCode (if c then some e else x) = firstFailing ((e.code, b) :: rest) := by
  by_cases h : c
  · rw [if_pos h, firstFailing, if_neg (hc.mp h)]
    rfl
  · rw [if_neg h, firstFailing, if_pos (by simpa [h] using hc), hrest]

/-- The tests of `PAY.VALIDATE` are the conditions of rule R181, in their order. -/
theorem reportCode_validation (r : Record) : reportCode (validation r) = firstFailure r := by
  rw [firstFailure_eq]
  unfold validation validityTests
  rw [Encoder.mailerDigits_eq, Encoder.allDigits_eq_digitsBelow r.ser]
  simp only [Encoder.present_eq, Encoder.digitsExactly_eq]
  have hnot : ∀ b : Bool, (!b) = true ↔ ¬ b = true := by decide
  simp only [← Bool.not_or]
  refine reportCode_test (e := .zipDigits) (hnot _) ?_
  refine reportCode_test (e := .zipRequired) (hnot _) ?_
  refine reportCode_test (e := .plus4Digits) (hnot _) ?_
  refine reportCode_test (e := .deliveryDigits) (hnot _) ?_
  refine reportCode_test (e := .plus4Required) (hnot _) ?_
  refine reportCode_test (e := .barcodeDigits) (hnot _) ?_
  refine reportCode_test (e := .barcodeSecond) ?_ ?_
  · rw [decide_eq_true_iff, decide_eq_true_iff]
    exact Encoder.digitOf_gt_four_iff _
  refine reportCode_test (e := .serviceDigits) (hnot _) ?_
  refine reportCode_test (e := .mailerDigits) (hnot _) ?_
  refine reportCode_test (e := .mailerSerial) (by simp) ?_
  exact reportCode_test (e := .mailerSerial) (hnot _) rfl

theorem payValidate_of_valid {s : State} (h : validRecord s.record) : payValidate s = .ok s := by
  rcases payValidate_cases s with ⟨-, hrun⟩ | ⟨e, he, -⟩
  · exact hrun
  · rw [(Encoder.validation_eq_none_iff _).mpr h] at he
    cases he

theorem payPack_of_invalid {s : State} (h : ¬ validRecord s.record) :
    ∃ e : ValReason, payPack s = .raised (.validation e) s ∧ e.code = firstFailure s.record := by
  rcases payValidate_cases s with ⟨hnone, -⟩ | ⟨e, he, hrun⟩
  · exact absurd ((Encoder.validation_eq_none_iff _).mp hnone) h
  · refine ⟨e, by rw [payPack, hrun, Run.andThen_raised], ?_⟩
    rw [← reportCode_validation, he]
    rfl

/-! ### The payload (rule R180) -/

/-- The shape conditions of a valid record: no delivery point without plus-4, no plus-4 without ZIP. -/
theorem shape_of_valid {r : Record} (h : validRecord r) :
    (r.p4.present = true → r.zip.present = true) ∧ (r.dp.present = true → r.p4.present = true) := by
  simp only [validRecord, validityTests, List.forall_mem_cons, Bool.or_eq_true, Bool.and_eq_true,
    Bool.not_eq_true'] at h
  obtain ⟨-, hp4, -, -, hdp, -⟩ := h
  simp only [Encoder.present_eq, Bool.not_eq_true']
  exact ⟨fun hp => hp4.resolve_left (by simp [hp]), fun hd => hdp.resolve_left (by simp [hd])⟩

/-- The routing value by its shape, as the packer's steps make it up (rule R183). -/
theorem packRouting_value {r : Record} (h : Encoder.PackRanges r)
    (hp4 : r.p4.present = true → r.zip.present = true)
    (hdp : r.dp.present = true → r.p4.present = true) (s : State) :
    SetsN (routingValue r) s (packRouting r s) ∧ routingValue r ≤ lastRouting := by
  have hzip := h.zip
  have hfour := h.p4
  have htwo := h.dp
  have hlast : lastRouting = 101000100000 := rfl
  have start : SetsN 0 s (bnClr s) := ⟨_, rfl, val_zero⟩
  by_cases hz : r.zip.present = true
  case neg =>
    have hnp : ¬ r.p4.present = true := fun hc => hz (hp4 hc)
    have hnd : ¬ r.dp.present = true := fun hc => hnp (hdp hc)
    have hR : routingValue r = 0 := by rw [routingValue, if_neg hnd, if_neg hnp, if_neg hz]
    have hm : marker r = 0 := by rw [marker, if_neg hz, if_neg hnp, if_neg hnd]
    refine ⟨?_, by omega⟩
    rw [hR]
    refine start.andThen fun n0 h0 => ?_
    simp only [whenPresent, hz, hnp, hnd, hm, Bool.false_eq_true, if_false, Run.andThen_ok]
    exact setsN_bnAdd h0 (by decide)
  have hzval := hzip hz
  by_cases hp : r.p4.present = true
  case neg =>
    have hnd : ¬ r.dp.present = true := fun hc => hp (hdp hc)
    have hR : routingValue r = fieldInt r.zip + 1 := by
      rw [routingValue, if_neg hnd, if_neg hp, if_pos hz]
    have hm : marker r = 1 := by rw [marker, if_pos hz, if_neg hp, if_neg hnd]
    refine ⟨?_, by omega⟩
    rw [hR]
    refine start.andThen fun n0 _ => ?_
    simp only [whenPresent, hz, hp, hnd, hm, Bool.false_eq_true, if_false, if_true]
    refine (setsN_bnLdlo _ (by omega)).andThen fun n1 h1 => ?_
    exact setsN_bnAdd h1 (by omega)
  have hpval := hfour hp
  by_cases hd : r.dp.present = true
  case neg =>
    have hR : routingValue r = fieldInt r.zip * 10 ^ 4 + fieldInt r.p4 + 100001 := by
      rw [routingValue, if_neg hd, if_pos hp]
    have hm : marker r = 100001 := by rw [marker, if_pos hz, if_pos hp, if_neg hd]
    refine ⟨?_, by omega⟩
    rw [hR]
    refine start.andThen fun n0 _ => ?_
    simp only [whenPresent, hz, hp, hd, hm, Bool.false_eq_true, if_false, if_true]
    refine (setsN_bnLdlo _ (by omega)).andThen fun n1 h1 => ?_
    refine (setsN_bnMuladd h1 (by omega)).andThen fun n2 h2 => ?_
    exact setsN_bnAdd h2 (by omega)
  have hdval := htwo hd
  have hR : routingValue r =
      (fieldInt r.zip * 10 ^ 4 + fieldInt r.p4) * 100 + fieldInt r.dp + 1000100001 := by
    rw [routingValue, if_pos hd]
  have hm : marker r = 1000100001 := by rw [marker, if_pos hz, if_pos hp, if_pos hd]
  refine ⟨?_, by omega⟩
  rw [hR]
  refine start.andThen fun n0 _ => ?_
  simp only [whenPresent, hz, hp, hd, hm, if_true]
  refine (setsN_bnLdlo _ (by omega)).andThen fun n1 h1 => ?_
  refine (setsN_bnMuladd h1 (by omega)).andThen fun n2 h2 => ?_
  refine (setsN_bnMuladd h2 (by omega)).andThen fun n3 h3 => ?_
  exact setsN_bnAdd h3 (by omega)

/-- `int` of two strings one after the other (rule R13). -/
theorem intOf_append (l l' : List Byte) : intOf (l ++ l') = intOf l * 10 ^ l'.length + intOf l' := by
  induction l' using List.reverseRecOn with
  | nil => simp [intOf]
  | append_singleton l' b ih =>
    have hsnoc : ∀ x : List Byte, intOf (x ++ [b]) = 10 * intOf x + digitOf b := fun x => by
      simp [intOf]
    rw [← List.append_assoc, hsnoc, ih, hsnoc, List.length_append, List.length_singleton, pow_succ]
    ring

theorem length_bytes (f : RecField) : f.bytes.length = f.len.toNat := by
  have : f.len.toNat < 16 := f.len.isLt
  simp only [RecField.bytes, List.length_take, Vector.length_toList]
  omega

/-- The mailer and the serial number of a valid record have fifteen digits. -/
theorem mailer_lengths {r : Record} (h : validRecord r) :
    (r.mid.len = 6 ∧ r.ser.len = 9) ∨ (r.mid.len = 9 ∧ r.ser.len = 6) := by
  simp only [validRecord, validityTests, List.forall_mem_cons, Bool.or_eq_true, Bool.and_eq_true,
    decide_eq_true_eq, lenIs] at h
  obtain ⟨-, -, -, -, -, -, -, -, ⟨hlen, -⟩, hsum, -⟩ := h
  rcases hlen with h6 | h9
  · exact .inl ⟨BitVec.eq_of_toNat_eq h6, BitVec.eq_of_toNat_eq (by
      rw [h6] at hsum
      show r.ser.len.toNat = 9
      omega)⟩
  · exact .inr ⟨BitVec.eq_of_toNat_eq h9, BitVec.eq_of_toNat_eq (by
      rw [h9] at hsum
      show r.ser.len.toNat = 6
      omega)⟩

theorem packMailer_value {r : Record} (h : validRecord r) {v : Nat} {s : State} (hs : val s.n = v)
    (hv : (v + 1) * 10 ^ 15 ≤ 2 ^ 110) :
    SetsN (v * 10 ^ 15 + intOf (r.mid.bytes ++ r.ser.bytes)) s (packMailer r s) := by
  have hranges := (Encoder.packRanges_of_valid h).mailer
  rw [intOf_append, length_bytes]
  change SetsN (v * 10 ^ 15 + (fieldInt r.mid * 10 ^ r.ser.len.toNat + fieldInt r.ser)) s _
  unfold packMailer
  rcases mailer_lengths h with ⟨hmid, hser⟩ | ⟨hmid, hser⟩
  · obtain ⟨-, hm, hn⟩ := hranges.resolve_right fun hc => hc.1 hmid
    have hvalue : v * 10 ^ 15 + (fieldInt r.mid * 10 ^ 9 + fieldInt r.ser) =
        ((v * 1000000 + fieldInt r.mid) * 100000 + 0) * 10000 + fieldInt r.ser := by ring
    rw [if_pos hmid, show r.ser.len.toNat = 9 by rw [hser]; rfl, hvalue]
    refine (setsN_bnMuladd hs (by omega)).andThen fun n1 h1 => ?_
    refine (setsN_bnMuladd h1 (by omega)).andThen fun n2 h2 => ?_
    exact setsN_bnMuladd h2 (by omega)
  · have hne : r.mid.len ≠ 6 := by rw [hmid]; decide
    obtain ⟨-, hm, hn⟩ := hranges.resolve_left fun hc => hne hc.1
    have hvalue : v * 10 ^ 15 + (fieldInt r.mid * 10 ^ 6 + fieldInt r.ser) =
        ((v * 10000 + 0) * 100000 + fieldInt r.mid) * 1000000 + fieldInt r.ser := by ring
    rw [if_neg hne, show r.ser.len.toNat = 6 by rw [hser]; rfl, hvalue]
    refine (setsN_bnMuladd hs (by omega)).andThen fun n1 h1 => ?_
    refine (setsN_bnMuladd h1 (by omega)).andThen fun n2 h2 => ?_
    exact setsN_bnMuladd h2 (by omega)

/-- The fifteen digits of mailer and serial number are a number below 10^15. -/
theorem mailerInt_lt {r : Record} (h : validRecord r) :
    intOf (r.mid.bytes ++ r.ser.bytes) < 10 ^ 15 := by
  have hranges := (Encoder.packRanges_of_valid h).mailer
  rw [intOf_append, length_bytes]
  change fieldInt r.mid * 10 ^ r.ser.len.toNat + fieldInt r.ser < _
  rcases mailer_lengths h with ⟨hmid, hser⟩ | ⟨hmid, hser⟩
  · obtain ⟨-, hm, hn⟩ := hranges.resolve_right fun hc => hc.1 hmid
    rw [show r.ser.len.toNat = 9 by rw [hser]; rfl]
    omega
  · have hne : r.mid.len ≠ 6 := by rw [hmid]; decide
    obtain ⟨-, hm, hn⟩ := hranges.resolve_left fun hc => hne hc.1
    rw [show r.ser.len.toNat = 6 by rw [hser]; rfl]
    omega

/-- The tracking part of the payload below a routing value (rule R180). -/
def trackingInt (r : Record) : Nat :=
  ((digitOf r.bid.ch[0] * 5 + digitOf r.bid.ch[1]) * 1000 + fieldInt r.stc) * 10 ^ 15 +
    intOf (r.mid.bytes ++ r.ser.bytes)

theorem payloadOf_eq (r : Record) :
    payloadOf r = routingValue r * (5 * 10 ^ 19) + trackingInt r := by
  rw [payloadOf, trackingInt]
  ring

theorem trackingInt_lt {r : Record} (h : validRecord r) : trackingInt r < 5 * 10 ^ 19 := by
  have hranges := Encoder.packRanges_of_valid h
  have hbid0 := hranges.bid0
  have hbid1 := hranges.bid1
  have hstc := hranges.stc
  have hmailer := mailerInt_lt h
  rw [trackingInt]
  omega

theorem packTracking_value {r : Record} (h : validRecord r) {R : Nat} {s : State} (hs : val s.n = R)
    (hR : R ≤ lastRouting) : SetsN (R * (5 * 10 ^ 19) + trackingInt r) s (packTracking r s) := by
  have hranges := Encoder.packRanges_of_valid h
  have hbid0 := hranges.bid0
  have hbid1 := hranges.bid1
  have hstc := hranges.stc
  have hlast : lastRouting = 101000100000 := rfl
  have hvalue : R * (5 * 10 ^ 19) + trackingInt r =
      (((R * 10 + digitOf r.bid.ch[0]) * 5 + digitOf r.bid.ch[1]) * 1000 + fieldInt r.stc) * 10 ^ 15 +
        intOf (r.mid.bytes ++ r.ser.bytes) := by
    rw [trackingInt]
    ring
  rw [hvalue]
  refine (setsN_bnMuladd hs (by omega)).andThen fun n1 h1 => ?_
  refine (setsN_bnMuladd h1 (by omega)).andThen fun n2 h2 => ?_
  refine (setsN_bnMuladd h2 (by omega)).andThen fun n3 h3 => ?_
  exact packMailer_value h h3 (by omega)

/-- `PAY.PACK` of a valid record sets `N` to the payload, which ten codewords carry. -/
theorem payPack_value {s : State} (h : validRecord s.record) :
    SetsN (payloadOf s.record) s (payPack s) ∧ payloadOf s.record < (lastRouting + 1) * (5 * 10 ^ 19) := by
  have hranges := Encoder.packRanges_of_valid h
  obtain ⟨hp4, hdp⟩ := shape_of_valid h
  obtain ⟨hrun, hR⟩ := packRouting_value hranges hp4 hdp s
  have htracking := trackingInt_lt h
  rw [payPack, payValidate_of_valid h, Run.andThen_ok, payloadOf_eq]
  exact ⟨hrun.andThen fun n hn => packTracking_value h hn hR, by omega⟩

theorem payloadOf_lt_splitBound {r : Record} (h : validRecord r) : payloadOf r < splitBound :=
  (payPack_value (s := { State.reset with record := r }) h).2.trans_le (by decide)

/-- Settles O35. -/
theorem packComposesThePayload : Obligations.PackComposesThePayload := by
  refine ⟨by decide, fun s hf => ⟨fun hvalid => ?_, fun hinvalid => ?_⟩⟩
  · obtain ⟨⟨n, hrun, hn⟩, hlt⟩ := payPack_value (s := { s with status := .zero }) hvalid
    exact ⟨n, command_ok (body := payPack) hf hrun, hn, hn.trans_lt (hlt.trans_le (by decide))⟩
  · obtain ⟨e, hrun, hcode⟩ := payPack_of_invalid (s := { s with status := .zero }) hinvalid
    refine (command_raised (body := payPack) hf hrun).trans ?_
    rw [← hcode]
    rfl

end Sys2Proof.Proofs.Pack
end

section
/-! SUPPORT. The barcode of a record: its limbs, its words, and what `ENCODE` writes
(spec/47_encode.md). -/

namespace Sys2Proof.Proofs.Barcode

open Sys2Proof Sys2Proof.Machine Sys2Proof.Proofs.MixedRadix Sys2Proof.Proofs.PayloadWords

set_option Elab.async false

/-! ### The limbs of a value -/

/-- Every limb is read off its value by division. -/
theorem limb_of_limbsVal (l : List Limb) (i : Nat) (hi : i < l.length) :
    limbsVal l / 2048 ^ (l.length - 1 - i) % 2048 = l[i].toNat := by
  induction l generalizing i with
  | nil => cases hi
  | cons x rest ih =>
    have hx := limb_lt x
    have hrest := limbsVal_lt rest
    rw [limbsVal_cons]
    cases i with
    | zero =>
      have hpos : 0 < 2048 ^ rest.length := by positivity
      simp only [List.length_cons, Nat.add_sub_cancel, Nat.sub_zero, List.getElem_cons_zero]
      rw [Nat.add_comm, Nat.add_mul_div_right _ _ hpos, Nat.div_eq_of_lt hrest, Nat.zero_add]
      exact Nat.mod_eq_of_lt hx
    | succ i =>
      have hi' : i < rest.length := Nat.lt_of_succ_lt_succ hi
      have hexp : (x :: rest).length - 1 - (i + 1) = rest.length - 1 - i := by
        rw [List.length_cons]; omega
      have hpow : 2048 ^ rest.length = 2048 ^ (rest.length - 1 - i) * (2048 * 2048 ^ i) := by
        rw [← pow_succ', ← pow_add]
        congr 1
        omega
      rw [hexp, List.getElem_cons_succ, ← ih i hi', hpow]
      rw [show x.toNat * (2048 ^ (rest.length - 1 - i) * (2048 * 2048 ^ i)) + limbsVal rest =
        2048 ^ (rest.length - 1 - i) * (2048 * (x.toNat * 2048 ^ i)) + limbsVal rest by ring]
      rw [Nat.mul_add_div (by positivity), Nat.mul_add_mod]

/-- The statements' limbs of a payload are the limbs whose value is the payload. -/
theorem payloadLimbs_eq {r : Record} {n : Limbs} (h : val n = payloadOf r) : payloadLimbs r = n := by
  refine Vector.ext fun i hi => BitVec.eq_of_toNat_eq ?_
  have hlimb := limb_of_limbsVal n.toList i (by simpa using hi)
  have hval : limbsVal n.toList = payloadOf r := h
  simp only [Vector.length_toList, Vector.getElem_toList, hval] at hlimb
  rw [payloadLimbs, Vector.getElem_ofFn, BitVec.toNat_ofNat]
  exact hlimb

theorem val_payloadLimbs {r : Record} (h : validRecord r) : val (payloadLimbs r) = payloadOf r := by
  obtain ⟨n, -, hn⟩ := (Pack.payPack_value (s := { State.reset with record := r }) h).1
  rw [payloadLimbs_eq hn, hn]

/-! ### The words of a record -/

/-- The frame-check sequence of a record's payload. -/
def recordFcs (r : Record) : BitVec 11 := fcsOf (payloadLimbs r)

/-- The words of a record are those of its payload. -/
theorem barcodeOf_eq (L : Layout) {r : Record} (h : validRecord r) :
    barcodeOf L r = render L (wordsOf (payloadOf r) (recordFcs r)) := by
  rw [barcodeOf, wordsOfPayload_eq, val_payloadLimbs h, recordFcs]

/-- The FCS that belongs to limbs of the payload's value. -/
theorem recordFcs_eq {r : Record} {n : Limbs} (h : val n = payloadOf r) : recordFcs r = fcsOf n := by
  rw [recordFcs, payloadLimbs_eq h]

/-- Settles O47: the words render injectively, and different payloads have different words. -/
theorem barcodesAreInjectiveOnPayloads : Obligations.BarcodesAreInjectiveOnPayloads := by
  intro r r' h h'
  rw [barcodeOf_eq layout h, barcodeOf_eq layout h']
  constructor
  · intro heq
    exact wordsOf_injective (Pack.payloadOf_lt_splitBound h) (Pack.payloadOf_lt_splitBound h')
      (Symbols.render_injective Symbols.layout_bijective heq)
  · intro heq
    have hlimbs : payloadLimbs r = payloadLimbs r' :=
      payloadLimbs_eq ((val_payloadLimbs h').trans heq.symm)
    rw [heq, recordFcs, recordFcs, hlimbs]

/-! ### `ENCODE` (rules R220, R221) -/

/-- The run of the encoder on a valid record, register by register. -/
theorem encodeRun_of_valid (L : Layout) {s : State} (h : validRecord s.record) :
    ∃ (n : Limbs) (res : BitVec 32) (cw : Codewords),
      encodeRun L s = .ok { s with
        n := n, res := res, fcs := recordFcs s.record, cw := cw
        w := wordsOf (payloadOf s.record) (recordFcs s.record)
        sym := bufferOf (barcodeOf L s.record), len := 65 } := by
  obtain ⟨n0, hpack, hn0⟩ := (Pack.payPack_value h).1
  have hlt : val n0 < splitBound := hn0.trans_lt (Pack.payloadOf_lt_splitBound h)
  obtain ⟨n, res, cw, hsplit, -, -, hcw⟩ :=
    Chain.cwSplit_below (s := { s with n := n0, fcs := fcsOf n0 }) hlt
  have hle : ∀ x ∈ cw.toList, x.toNat ≤ 1364 := by
    intro x hx
    obtain ⟨i, hi, rfl⟩ := Vector.mem_iff_getElem.mp (Vector.mem_toList_iff.mp hx)
    exact (hcw ⟨i, hi⟩).trans_le ((codewordOf_ranges hlt _).2.2.2 _)
  rcases cwMap_cases { s with n := n, fcs := fcsOf n0, res := res, cw := cw } with
    ⟨-, hmap⟩ | ⟨⟨x, hx, hgt⟩, -⟩
  case inr => exact absurd (hle x hx) (Nat.not_le_of_lt hgt)
  refine ⟨n, res, cw, ?_⟩
  rw [encodeRun, hpack, Run.andThen_ok, fcsCalc, Run.andThen_ok, hsplit, Run.andThen_ok, hmap,
    Run.andThen_ok, symEmit, barcodeOf_eq L h, recordFcs_eq hn0, ← hn0, ← mapWords_eq hcw]

/-- Settles O45. -/
theorem encodeWritesTheBarcode : Obligations.EncodeWritesTheBarcode := by
  refine ⟨by decide, fun s hf => ⟨fun hvalid => ?_, fun hinvalid => ?_⟩⟩
  · obtain ⟨n, res, cw, hrun⟩ :=
      encodeRun_of_valid layout (s := { s with status := .zero }) hvalid
    have hsym := Symbols.allSyms_render layout (wordsOfPayload (payloadLimbs s.record))
    refine ⟨_, command_ok (body := encodeRun layout) hf hrun, rfl, rfl, bufferOf_last _,
      sym65_of_bufferOf rfl, ?_, rfl, rfl, rfl, rfl, rfl, rfl, rfl, rfl⟩
    rw [sym65_of_bufferOf rfl]
    exact hsym
  · obtain ⟨e, hrun, hcode⟩ := Pack.payPack_of_invalid (s := { s with status := .zero }) hinvalid
    have hencode : encodeRun layout { s with status := .zero } =
        .raised (.validation e) { s with status := .zero } := by
      rw [encodeRun, hrun, Run.andThen_raised]
    refine (command_raised (body := encodeRun layout) hf hencode).trans ?_
    rw [← hcode]
    rfl

end Sys2Proof.Proofs.Barcode
end

section
/-! SUPPORT. The run of `PAY.UNPACK`, register by register (spec/45_payload.md rule R186). -/

namespace Sys2Proof.Proofs.Unpack

open Sys2Proof Sys2Proof.Machine

set_option Elab.async false

/-! ### The digit registers of a value (rules R30, R31) -/

/-- `TRACK` after unpacking the value `v`. -/
def trackOf (v : Nat) : Vector Digit 20 := Vector.ofFn fun j => BitVec.ofNat 4 (trackDigit v j)

/-- `ROUTE` after unpacking the routing value `R`. -/
def routeOf (R : Nat) : Vector Digit 11 := Vector.ofFn fun j => BitVec.ofNat 4 (routeDigit R j)

theorem trackDigit_lt (v j : Nat) : trackDigit v j < 10 := by
  unfold trackDigit
  split_ifs <;> omega

theorem routeDigit_lt (R j : Nat) : routeDigit R j < 10 := by
  unfold routeDigit
  split_ifs <;> omega

theorem trackOf_toNat (v : Nat) (j : Fin 20) : (trackOf v)[j].toNat = trackDigit v j := by
  rw [trackOf, Fin.getElem_fin, Vector.getElem_ofFn, BitVec.toNat_ofNat]
  exact Nat.mod_eq_of_lt ((trackDigit_lt v j).trans (by decide))

theorem routeOf_toNat (R : Nat) (j : Fin 11) : (routeOf R)[j].toNat = routeDigit R j := by
  rw [routeOf, Fin.getElem_fin, Vector.getElem_ofFn, BitVec.toNat_ofNat]
  exact Nat.mod_eq_of_lt ((routeDigit_lt R j).trans (by decide))

theorem eq_trackOf {track : Vector Digit 20} {v : Nat}
    (h : ∀ j : Fin 20, track[j].toNat = trackDigit v j) : track = trackOf v :=
  Vector.ext fun i hi => BitVec.eq_of_toNat_eq
    ((h ⟨i, hi⟩).trans (trackOf_toNat v ⟨i, hi⟩).symm)

theorem eq_routeOf {route : Vector Digit 11} {R : Nat}
    (h : ∀ j : Fin 11, route[j].toNat = routeDigit R j) : route = routeOf R :=
  Vector.ext fun i hi => BitVec.eq_of_toNat_eq
    ((h ⟨i, hi⟩).trans (routeOf_toNat R ⟨i, hi⟩).symm)

/-! ### Step 9: the tracking digits -/

theorem toNat_small_remainder {x d : Nat} (hd : 1 ≤ d) (hd' : d ≤ 10) :
    ((BitVec.ofNat 32 (x % d)).setWidth 4).toNat = x % d := by
  have : x % d < d := Nat.mod_lt _ hd
  rw [BitVec.toNat_setWidth, BitVec.toNat_ofNat]
  omega

theorem set_track_getElem (track : Vector Digit 20) (i j : Fin 20) (x : Digit) :
    (track.set i x)[j] = if j = i then x else track[j] := by
  split_ifs with h
  · subst h
    exact Vector.getElem_set_self j.isLt
  · exact Port.getElem_set_other track x fun hij => h hij.symm

/-- The loop over tracking positions: turn `k` writes decimal digit `k`. -/
theorem trackLoop_digits (l : List (Fin 20)) (hl : l.Nodup) (s : State) :
    ∃ (n : Limbs) (res : BitVec 32) (track : Vector Digit 20),
      forEach l (takeTrack 10) s = .ok { s with n := n, res := res, track := track } ∧
      val n = val s.n / 10 ^ l.length ∧
      (∀ (k : Nat) (j : Fin 20), l[k]? = some j → track[j].toNat = val s.n / 10 ^ k % 10) ∧
      ∀ j : Fin 20, j ∉ l → track[j] = s.track[j] := by
  induction l generalizing s with
  | nil => exact ⟨s.n, s.res, s.track, rfl, by simp, by simp, fun _ _ => rfl⟩
  | cons i rest ih =>
    obtain ⟨hi, hrest⟩ := List.nodup_cons.mp hl
    obtain ⟨n0, hn0, hturn⟩ := takeTrack_eq 10 (by decide) i s
    obtain ⟨n, res, track, hrun, hn, hdigit, hkeep⟩ := ih hrest { s with
      n := n0, res := BitVec.ofNat 32 (val s.n % 10)
      track := s.track.set i ((BitVec.ofNat 32 (val s.n % 10)).setWidth 4) }
    have hdiv : ∀ k, val n0 / 10 ^ k = val s.n / 10 ^ (k + 1) := by
      intro k
      rw [hn0, Nat.div_div_eq_div_mul, pow_succ']
    simp only [hdiv] at hn hdigit
    simp only [set_track_getElem] at hkeep
    refine ⟨n, res, track, by rw [forEach_cons, hturn, Run.andThen_ok, hrun], hn, fun k j hk => ?_,
      fun j hj => ?_⟩
    · cases k with
      | zero =>
        obtain rfl : i = j := Option.some.inj hk
        rw [hkeep i hi, if_pos rfl, pow_zero, Nat.div_one]
        exact toNat_small_remainder (by decide) (by decide)
      | succ k => exact hdigit k j hk
    · obtain ⟨hji, hjr⟩ := List.ne_and_not_mem_of_not_mem_cons hj
      rw [hkeep j hjr, if_neg hji]

/-- The place of position `j` in the loop's order. -/
theorem getElem?_trackOrder : ∀ j : Fin 20, 2 ≤ j.val → trackOrder[19 - j.val]? = some j := by
  decide

/-- Step 9: all twenty tracking digits, and the routing value is left. -/
theorem unpackTracking_run (s : State) :
    ∃ (n : Limbs) (res : BitVec 32),
      unpackTracking s = .ok { s with n := n, res := res, track := trackOf (val s.n) } ∧
      val n = val s.n / (5 * 10 ^ 19) := by
  obtain ⟨n1, res1, track, hloop, hn1, hdigit, -⟩ := trackLoop_digits trackOrder (by decide) s
  obtain ⟨n2, hn2, hsecond⟩ := takeTrack_eq 5 (by decide) 1
    { s with n := n1, res := res1, track := track }
  obtain ⟨n3, hn3, hfirst⟩ := takeTrack_eq 10 (by decide) 0
    { s with n := n2, res := BitVec.ofNat 32 (val n1 % 5)
             track := track.set 1 ((BitVec.ofNat 32 (val n1 % 5)).setWidth 4) }
  have hlen : trackOrder.length = 18 := rfl
  rw [hlen] at hn1
  simp only at hn2 hn3
  have h2 : val n2 = val s.n / (5 * 10 ^ 18) := by omega
  have h3 : val n3 = val s.n / (5 * 10 ^ 19) := by omega
  refine ⟨n3, BitVec.ofNat 32 (val n2 % 10), ?_, h3⟩
  have htrack : (track.set 1 ((BitVec.ofNat 32 (val n1 % 5)).setWidth 4)).set 0
      ((BitVec.ofNat 32 (val n2 % 10)).setWidth 4) = trackOf (val s.n) := by
    refine eq_trackOf fun j => ?_
    have hset := set_track_getElem (track.set 1 ((BitVec.ofNat 32 (val n1 % 5)).setWidth 4)) 0 j
      ((BitVec.ofNat 32 (val n2 % 10)).setWidth 4)
    have hset' := set_track_getElem track 1 j ((BitVec.ofNat 32 (val n1 % 5)).setWidth 4)
    refine (congrArg BitVec.toNat hset).trans ?_
    unfold trackDigit
    by_cases hj0 : j = 0
    · rw [if_pos hj0, if_pos (by omega), toNat_small_remainder (by decide) (by decide), h2]
    · rw [if_neg hj0, if_neg (by omega)]
      refine (congrArg BitVec.toNat hset').trans ?_
      by_cases hj1 : j = 1
      · rw [if_pos hj1, if_pos (by omega), toNat_small_remainder (by decide) (by decide), hn1]
      · rw [if_neg hj1, if_neg (by omega), hdigit _ j (getElem?_trackOrder j (by omega))]
  rw [unpackTracking, hloop, Run.andThen_ok, hsecond, Run.andThen_ok, ← htrack]
  exact hfirst

/-! ### Step 10: the routing digits -/

theorem set_route_getElem (route : Vector Digit 11) {pos : Nat} (j : Fin 11) (x : Digit) :
    (route.setIfInBounds pos x)[j] = if j.val = pos then x else route[j] := by
  rw [Fin.getElem_fin, Vector.getElem_setIfInBounds j.isLt]
  simp only [eq_comm, Fin.getElem_fin]

/-- `sz` routing digits below position `pos`, the least significant first. -/
theorem takeRoutes_digits (sz : Nat) : ∀ (pos : Nat) (s : State), sz ≤ pos →
    ∃ (n : Limbs) (res : BitVec 32) (route : Vector Digit 11),
      takeRoutes sz pos s = .ok { s with n := n, res := res, route := route } ∧
      val n = val s.n / 10 ^ sz ∧
      ∀ j : Fin 11, route[j].toNat =
        if pos - sz ≤ j.val ∧ j.val < pos then val s.n / 10 ^ (pos - 1 - j.val) % 10
        else s.route[j].toNat := by
  induction sz with
  | zero =>
    intro pos s _
    refine ⟨s.n, s.res, s.route, rfl, by simp, fun j => ?_⟩
    rw [if_neg (by omega)]
  | succ sz ih =>
    intro pos s hpos
    obtain ⟨n0, hn0, hturn⟩ := takeRoute_eq (pos - 1) s
    obtain ⟨n, res, route, hrun, hn, hdigit⟩ := ih (pos - 1) { s with
      n := n0, res := BitVec.ofNat 32 (val s.n % 10)
      route := s.route.setIfInBounds (pos - 1) ((BitVec.ofNat 32 (val s.n % 10)).setWidth 4) }
      (by omega)
    have hdiv : ∀ k, val n0 / 10 ^ k = val s.n / 10 ^ (k + 1) := by
      intro k
      rw [hn0, Nat.div_div_eq_div_mul, pow_succ']
    simp only [hdiv] at hn hdigit
    refine ⟨n, res, route, by rw [takeRoutes, hturn, Run.andThen_ok, hrun], hn, fun j => ?_⟩
    rw [hdigit, set_route_getElem]
    by_cases hj : j.val = pos - 1
    · have hexp : pos - 1 - j.val = 0 := by omega
      rw [if_neg (by omega), if_pos hj, if_pos (by omega), hexp, pow_zero, Nat.div_one]
      exact toNat_small_remainder (by decide) (by decide)
    · by_cases hin : pos - 1 - sz ≤ j.val ∧ j.val < pos - 1
      · have hexp : pos - 1 - 1 - j.val + 1 = pos - 1 - j.val := by omega
        rw [if_pos hin, if_pos (by omega), hexp]
      · rw [if_neg hin, if_neg hj, if_neg (by omega)]

/-- One turn of step 10: the value loses 1 and then `sz` decimal digits. -/
theorem unpackRouting_turn (sz : Nat) (rest : List Nat) {pos : Nat} (hpos : sz ≤ pos) {s : State}
    (h : val s.n ≠ 0) :
    ∃ (n : Limbs) (res : BitVec 32) (route : Vector Digit 11),
      unpackRouting (sz :: rest) pos s =
        unpackRouting rest (pos - sz) { s with n := n, res := res, route := route } ∧
      val n = (val s.n - 1) / 10 ^ sz ∧
      ∀ j : Fin 11, route[j].toNat =
        if pos - sz ≤ j.val ∧ j.val < pos then (val s.n - 1) / 10 ^ (pos - 1 - j.val) % 10
        else s.route[j].toNat := by
  obtain ⟨n0, hadd, hn0⟩ := bnAdd_minus_one { s with res := 0 } h
  obtain ⟨n, res, route, hrun, hn, hdigit⟩ := takeRoutes_digits sz pos
    { s with res := 0, n := n0 } hpos
  simp only [hn0] at hn hdigit
  refine ⟨n, res, route, ?_, hn, hdigit⟩
  rw [unpackRouting, bnIszero_eq, Run.andThen_ok, if_neg h]
  rw [if_neg (by simp), hadd, Run.andThen_ok, hrun, Run.andThen_ok]

/-- Step 10 ends when nothing is left. -/
theorem unpackRouting_of_zero (sizes : List Nat) {pos : Nat} {s : State} (h : val s.n = 0) :
    unpackRouting sizes pos s = .ok { s with
      res := 1, rpos := BitVec.ofNat 4 pos, record := recordOf s.track s.route pos } := by
  have hend : ∀ u : State, val u.n = 0 → unpackEnd pos u = .ok { u with
      res := 1, rpos := BitVec.ofNat 4 pos, record := recordOf u.track u.route pos } := by
    intro u hu
    rcases unpackEnd_cases pos u with ⟨-, hrun⟩ | ⟨hne, -⟩
    · exact hrun
    · exact absurd hu hne
  cases sizes with
  | nil => exact hend s h
  | cons sz rest =>
    rw [unpackRouting, bnIszero_eq, Run.andThen_ok, if_pos h]
    exact (if_pos rfl).trans (hend { s with res := 1 } h)

/-- A value left over after the eleven digits is a padding failure. -/
theorem unpackRouting_of_left {pos : Nat} {s : State} (h : val s.n ≠ 0) :
    unpackRouting [] pos s = .raised (.decoding .invalidBarcode .padding) { s with res := 0 } := by
  rcases unpackEnd_cases pos s with ⟨hz, -⟩ | ⟨-, hrun⟩
  · exact absurd hz h
  · exact hrun

end Sys2Proof.Proofs.Unpack
end

section
/-! SUPPORT. What `PAY.UNPACK` does in all: which values it takes, and the state it ends in
(spec/45_payload.md rules R180, R186). -/

namespace Sys2Proof.Proofs.UnpackRun

open Sys2Proof Sys2Proof.Machine Sys2Proof.Proofs.Unpack

set_option Elab.async false

/-! ### The routing shapes (rule R180) -/

theorem routingShape_of_zero : routingShape 0 = (11, 0) := rfl

theorem routingShape_zip {R : Nat} (h : R ≠ 0) (h' : R ≤ 100000) : routingShape R = (6, 1) := by
  rw [routingShape, if_neg h, if_pos h']

theorem routingShape_plus4 {R : Nat} (h : 100000 < R) (h' : R ≤ 1000100000) :
    routingShape R = (2, 100001) := by
  rw [routingShape, if_neg (by omega), if_neg (by omega), if_pos h']

theorem routingShape_delivery {R : Nat} (h : 1000100000 < R) :
    routingShape R = (0, 1000100001) := by
  rw [routingShape, if_neg (by omega), if_neg (by omega), if_neg (by omega)]

/-- Positions 6 to 10 after the first turn. -/
theorem zip_digit {R : Nat} (h : R ≠ 0) (h' : R ≤ 100000) (j : Fin 11) :
    routeDigit R j = if 6 ≤ j.val ∧ j.val < 11 then (R - 1) / 10 ^ (10 - j.val) % 10 else 0 := by
  rw [routeDigit, routingShape_zip h h']
  by_cases hj : j.val < 6
  · rw [if_pos hj, if_neg (by omega)]
  · rw [if_neg hj, if_pos (by omega)]

/-- A multiple of `10 ^ m` does not reach the decimal digits below place `m`. -/
theorem digit_add_multiple {x y c k m : Nat} (hk : k < m) (hy : y = x + c * 10 ^ m) :
    y / 10 ^ k % 10 = x / 10 ^ k % 10 := by
  obtain ⟨e, rfl⟩ := Nat.exists_eq_add_of_lt hk
  have hsplit : c * 10 ^ (k + e + 1) = c * 10 ^ e * 10 * 10 ^ k := by ring
  rw [hy, hsplit, Nat.add_mul_div_right _ _ (by positivity), Nat.add_mul_mod_self_right]

/-- Decimal place `k` of what is left after `m` digits is place `k + m`. -/
theorem digit_of_quotient {x y k m p : Nat} (hy : y = x / 10 ^ m) (hp : k + m = p) :
    y / 10 ^ k % 10 = x / 10 ^ p % 10 := by
  rw [hy, Nat.div_div_eq_div_mul, ← pow_add, Nat.add_comm m k, hp]

/-- The first turn's digits and the second turn's are those of one number. -/
theorem plus4_digit {R n1 : Nat} (h : 100000 < R) (h' : R ≤ 1000100000)
    (hn1 : n1 = (R - 1) / 10 ^ 5) (j : Fin 11) :
    routeDigit R j = if 2 ≤ j.val ∧ j.val < 6 then (n1 - 1) / 10 ^ (5 - j.val) % 10
      else if 6 ≤ j.val ∧ j.val < 11 then (R - 1) / 10 ^ (10 - j.val) % 10 else 0 := by
  rw [routeDigit, routingShape_plus4 h h']
  by_cases hlow : j.val < 2
  · rw [if_pos hlow, if_neg (by omega), if_neg (by omega)]
  rw [if_neg hlow]
  by_cases hmid : j.val < 6
  · rw [if_pos ⟨by omega, hmid⟩]
    exact (digit_of_quotient (m := 5) (by omega) (by omega)).symm
  · rw [if_neg (by omega), if_pos (by omega)]
    exact (digit_add_multiple (c := 1) (m := 5) (by omega) (by omega)).symm

/-- The digits of all three turns are those of one number. -/
theorem delivery_digit {R n1 n2 : Nat} (h : 1000100000 < R) (hn1 : n1 = (R - 1) / 10 ^ 5)
    (hn2 : n2 = (n1 - 1) / 10 ^ 4) (j : Fin 11) :
    routeDigit R j = if 0 ≤ j.val ∧ j.val < 2 then (n2 - 1) / 10 ^ (1 - j.val) % 10
      else if 2 ≤ j.val ∧ j.val < 6 then (n1 - 1) / 10 ^ (5 - j.val) % 10
      else if 6 ≤ j.val ∧ j.val < 11 then (R - 1) / 10 ^ (10 - j.val) % 10 else 0 := by
  rw [routeDigit, routingShape_delivery h, if_neg (Nat.not_lt_zero _)]
  by_cases hlow : j.val < 2
  · rw [if_pos ⟨Nat.zero_le _, hlow⟩]
    exact (digit_of_quotient (m := 9) (by omega) (by omega)).symm
  rw [if_neg (by omega)]
  by_cases hmid : j.val < 6
  · rw [if_pos ⟨by omega, hmid⟩]
    have hsum : n1 - 1 = (R - 1000100001) / 10 ^ 5 + 1 * 10 ^ 4 := by omega
    rw [digit_add_multiple (by omega) hsum]
    exact (digit_of_quotient (m := 5) rfl (by omega)).symm
  · rw [if_neg (by omega), if_pos (by omega)]
    exact (digit_add_multiple (c := 10001) (m := 5) (by omega) (by omega)).symm

/-! ### Steps 10 to 12 -/

/-- The state after a successful unpacking of the routing value in `N`. -/
def routed (s : State) : State :=
  { s with
    n := Vector.replicate 10 0, res := 1, route := routeOf (val s.n)
    rpos := BitVec.ofNat 4 (routingShape (val s.n)).1
    record := recordOf s.track (routeOf (val s.n)) (routingShape (val s.n)).1 }

theorem unpackRouting_end {sizes : List Nat} {pos : Nat} {s t : State} (hn : val t.n = 0)
    (hpos : pos = (routingShape (val s.n)).1) (hroute : t.route = routeOf (val s.n))
    (hkeep : { t with n := s.n, res := s.res, route := s.route } = s) :
    unpackRouting sizes pos t = .ok (routed s) := by
  rw [unpackRouting_of_zero sizes hn]
  have hzero := (val_eq_zero_iff t.n).mp hn
  cases s
  cases t
  simp only [State.mk.injEq] at hkeep hzero hroute
  obtain ⟨rfl, -, -, rfl, rfl, rfl, rfl, rfl, -, rfl, rfl, rfl, rfl, rfl, rfl, rfl, rfl, rfl, rfl⟩ := hkeep
  simp only [routed, hzero, hroute, hpos]

/-- Step 10 on, for every routing value. -/
theorem unpackRouting_run {s : State} (hs : s.route = Vector.replicate 11 0) :
    (val s.n ≤ lastRouting → unpackRouting [5, 4, 2] 11 s = .ok (routed s)) ∧
    (lastRouting < val s.n → ∃ n : Limbs, val n = (val s.n - 1000100001) / 10 ^ 11 ∧
      unpackRouting [5, 4, 2] 11 s = .raised (.decoding .invalidBarcode .padding)
        { s with n := n, res := 0, route := routeOf (val s.n) }) := by
  have hlast : lastRouting = 101000100000 := rfl
  have hinit : ∀ j : Fin 11, s.route[j].toNat = 0 := fun j => by
    rw [hs, Fin.getElem_fin, Vector.getElem_replicate]
    rfl
  by_cases h0 : val s.n = 0
  · refine ⟨fun _ => unpackRouting_end h0 (by rw [h0]; rfl) (eq_routeOf fun j => ?_) rfl, by omega⟩
    rw [hinit, h0, routeDigit, routingShape_of_zero, if_pos (by omega)]
  obtain ⟨n1, res1, route1, hrun1, hn1, hd1⟩ :=
    unpackRouting_turn 5 [4, 2] (pos := 11) (by decide) h0
  simp only [hinit] at hd1
  by_cases h1 : val n1 = 0
  · have hle : val s.n ≤ 100000 := by omega
    refine ⟨fun _ => ?_, by omega⟩
    rw [hrun1]
    refine unpackRouting_end h1 (by rw [routingShape_zip h0 hle]) (eq_routeOf fun j => ?_) rfl
    rw [zip_digit h0 hle, hd1]
  obtain ⟨n2, res2, route2, hrun2, hn2, hd2⟩ := unpackRouting_turn 4 [2] (pos := 11 - 5)
    (s := { s with n := n1, res := res1, route := route1 }) (by decide) h1
  simp only [hd1] at hd2
  simp only at hn2
  by_cases h2 : val n2 = 0
  · have hle : val s.n ≤ 1000100000 := by omega
    have hlt : 100000 < val s.n := by omega
    refine ⟨fun _ => ?_, by omega⟩
    rw [hrun1, hrun2]
    refine unpackRouting_end h2 (by rw [routingShape_plus4 hlt hle]) (eq_routeOf fun j => ?_) rfl
    rw [plus4_digit hlt hle hn1]
    exact hd2 j
  obtain ⟨n3, res3, route3, hrun3, hn3, hd3⟩ := unpackRouting_turn 2 [] (pos := 11 - 5 - 4)
    (s := { s with n := n2, res := res2, route := route2 }) (by decide) h2
  simp only [hd2] at hd3
  simp only at hn3
  have hlt : 1000100000 < val s.n := by omega
  have hroute : route3 = routeOf (val s.n) := eq_routeOf fun j => by
    rw [delivery_digit hlt hn1 hn2]
    exact hd3 j
  have hleft : val n3 = (val s.n - 1000100001) / 10 ^ 11 := by omega
  refine ⟨fun hle => ?_, fun hgt => ⟨n3, hleft, ?_⟩⟩
  · rw [hrun1, hrun2, hrun3]
    exact unpackRouting_end (by show val n3 = 0; omega) (by rw [routingShape_delivery hlt]) hroute rfl
  · rw [hrun1, hrun2, hrun3, unpackRouting_of_left (by show val n3 ≠ 0; omega), hroute]

/-! ### The whole command -/

/-- The record that the value `v` unpacks to (rule R186). -/
def unpackedRecord (v : Nat) : Record :=
  recordOf (trackOf v) (routeOf (v / (5 * 10 ^ 19))) (routingShape (v / (5 * 10 ^ 19))).1

/-- The state after a successful `PAY.UNPACK`. -/
def unpacked (s : State) : State :=
  { s with
    n := Vector.replicate 10 0, res := 1, track := trackOf (val s.n)
    route := routeOf (val s.n / (5 * 10 ^ 19))
    rpos := BitVec.ofNat 4 (routingShape (val s.n / (5 * 10 ^ 19))).1
    record := unpackedRecord (val s.n) }

theorem payUnpack_of_le {s : State} (h : val s.n / (5 * 10 ^ 19) ≤ lastRouting) :
    payUnpack s = .ok (unpacked s) := by
  obtain ⟨n, res, hrun, hn⟩ := unpackTracking_run
    { s with track := Vector.replicate 20 0, route := Vector.replicate 11 0 }
  simp only at hn
  rw [payUnpack, hrun, Run.andThen_ok]
  refine ((unpackRouting_run rfl).1 (by show val n ≤ _; omega)).trans ?_
  simp only [routed, unpacked, unpackedRecord, hn]

theorem payUnpack_of_gt {s : State} (h : lastRouting < val s.n / (5 * 10 ^ 19)) :
    ∃ n : Limbs, val n = (val s.n / (5 * 10 ^ 19) - 1000100001) / 10 ^ 11 ∧
      payUnpack s = .raised (.decoding .invalidBarcode .padding) { s with
        n := n, res := 0, track := trackOf (val s.n)
        route := routeOf (val s.n / (5 * 10 ^ 19)) } := by
  obtain ⟨n0, res, hrun, hn0⟩ := unpackTracking_run
    { s with track := Vector.replicate 20 0, route := Vector.replicate 11 0 }
  simp only at hn0
  obtain ⟨n, hn, hfail⟩ := (unpackRouting_run (s := { s with
    n := n0, res := res, track := trackOf (val s.n), route := Vector.replicate 11 0 }) rfl).2
    (by show _ < val n0; omega)
  simp only [hn0] at hn hfail
  exact ⟨n, hn, by rw [payUnpack, hrun, Run.andThen_ok, hfail]⟩

end Sys2Proof.Proofs.UnpackRun
end

section
/-! SUPPORT. The record that `PAY.UNPACK` makes up (spec/45_payload.md rule R186): its fields hold the
tracking and the routing digits, and its payload is the value unpacked. -/

namespace Sys2Proof.Proofs.UnpackRecord

open Sys2Proof Sys2Proof.Machine Sys2Proof.Proofs.Unpack Sys2Proof.Proofs.UnpackRun

set_option Elab.async false

/-! ### A field made of digits (rules R13, R35, R186) -/

theorem strOf_len (ds : List Digit) : (strOf ds).len = BitVec.ofNat 4 ds.length := rfl

theorem strOf_len_toNat {ds : List Digit} (h : ds.length ≤ 15) :
    (strOf ds).len.toNat = ds.length := by
  rw [strOf_len, BitVec.toNat_ofNat]
  exact Nat.mod_eq_of_lt (by omega)

theorem asciiOf_eq (d : Digit) : asciiOf d = BitVec.ofNat 8 (0x30 + d.toNat) := by
  unfold asciiOf
  apply BitVec.eq_of_toNat_eq
  simp [BitVec.toNat_add]

theorem digitOf_asciiOf (d : Digit) : digitOf (asciiOf d) = d.toNat := by
  have : d.toNat < 16 := d.isLt
  rw [digitOf, asciiOf_eq, BitVec.toNat_ofNat]
  omega

theorem strOf_ch {ds : List Digit} {k : Nat} (hk : k < ds.length) (hk' : k < 15) :
    (strOf ds).ch[k] = asciiOf ds[k] := by
  simp [strOf, hk]

theorem strOf_ch_of_ge {ds : List Digit} {k : Nat} (hk : ds.length ≤ k) (hk' : k < 15) :
    (strOf ds).ch[k] = 0 := by
  simp [strOf, hk]

theorem strOf_bytes {ds : List Digit} (h : ds.length ≤ 15) : (strOf ds).bytes = digitBytes ds := by
  refine List.ext_getElem ?_ fun k hk _ => ?_
  · rw [Pack.length_bytes, strOf_len_toNat h, digitBytes, List.length_map]
  · have hk' : k < ds.length := by rwa [Pack.length_bytes, strOf_len_toNat h] at hk
    simp only [RecField.bytes, digitBytes, List.getElem_take, List.getElem_map, Vector.getElem_toList,
      strOf_ch hk', asciiOf_eq]

theorem tidyField_strOf {ds : List Digit} (h : ds.length ≤ 15) : tidyField (strOf ds) = strOf ds := by
  have hch : (tidyField (strOf ds)).ch = (strOf ds).ch := by
    refine Vector.ext fun k hk => ?_
    rw [tidyField, Vector.getElem_ofFn, strOf_len_toNat h]
    by_cases hlt : k < ds.length
    · rw [if_pos hlt]
      rfl
    · rw [if_neg hlt, strOf_ch_of_ge (by omega)]
  exact (congrArg (RecField.mk _) hch)

theorem digitsBelow_strOf {ds : List Digit} (hds : ∀ d ∈ ds, d.toNat ≤ 9) :
    digitsBelow ds.length (strOf ds) = true := by
  rw [digitsBelow, List.all_eq_true]
  intro j _
  by_cases hlt : j.val < ds.length
  · have hd := hds _ (List.getElem_mem hlt)
    rw [Fin.getElem_fin, strOf_ch hlt, asciiOf_eq, BitVec.toNat_ofNat]
    simp only [Bool.or_eq_true, Bool.and_eq_true, decide_eq_true_eq]
    omega
  · simp only [Bool.or_eq_true, decide_eq_true_eq]
    exact .inl (by omega)

theorem intOf_concat (l : List Byte) (b : Byte) : intOf (l ++ [b]) = 10 * intOf l + digitOf b := by
  simp [intOf]

/-- Digits of consecutive decimal places are the number of those places. -/
theorem intOf_digits : ∀ (ds : List Digit) (x : Nat),
    (∀ k (hk : k < ds.length), ds[k].toNat = x / 10 ^ (ds.length - 1 - k) % 10) →
    intOf (digitBytes ds) = x % 10 ^ ds.length := by
  intro ds
  induction ds using List.reverseRecOn with
  | nil => intro x _; simp [digitBytes, intOf, Nat.mod_one]
  | append_singleton ds d ih =>
    intro x h
    have hlast := h ds.length (by simp)
    have hinit : ∀ k (hk : k < ds.length), ds[k].toNat = x / 10 / 10 ^ (ds.length - 1 - k) % 10 := by
      intro k hk
      have hdigit := h k (by simp; omega)
      rw [List.getElem_append_left hk, List.length_append, List.length_singleton] at hdigit
      rw [hdigit, Nat.div_div_eq_div_mul, ← pow_succ']
      congr 3
      omega
    have hd : d.toNat = x % 10 := by simpa using hlast
    rw [digitBytes, List.map_append, List.map_singleton, intOf_concat, ← digitBytes, ih _ hinit,
      ← asciiOf_eq, digitOf_asciiOf, hd, List.length_append, List.length_singleton, pow_succ',
      Nat.mod_mul]
    omega

/-! ### Runs of digit registers -/

theorem digitsAt_length {m : Nat} (v : Vector Digit m) {j k : Nat} (h : j + k ≤ m) :
    (digitsAt v j k).length = k := by
  simp only [digitsAt, List.length_take, List.length_drop, Vector.length_toList]
  omega

theorem digitsAt_getElem {m : Nat} (v : Vector Digit m) {j k i : Nat}
    (hi : i < (digitsAt v j k).length) (hm : j + i < m) : (digitsAt v j k)[i] = v[j + i] := by
  simp only [digitsAt, List.getElem_take, List.getElem_drop, Vector.getElem_toList]

theorem mem_digitsAt {m : Nat} {v : Vector Digit m} {j k : Nat} {d : Digit}
    (h : d ∈ digitsAt v j k) : d ∈ v.toList :=
  List.mem_of_mem_drop (List.mem_of_mem_take h)

theorem digitsAt_append {m : Nat} (v : Vector Digit m) (j k k' : Nat) :
    digitsAt v j k ++ digitsAt v (j + k) k' = digitsAt v j (k + k') := by
  simp only [digitsAt]
  rw [← List.drop_drop, ← List.take_add]

theorem digitsAt_all {m : Nat} (v : Vector Digit m) {j k : Nat} (h : m ≤ j + k) :
    digitsAt v j k = v.toList.drop j := by
  rw [digitsAt, List.take_of_length_le]
  rw [List.length_drop, Vector.length_toList]
  omega

theorem digitBytes_append (ds ds' : List Digit) :
    digitBytes (ds ++ ds') = digitBytes ds ++ digitBytes ds' := List.map_append

theorem trackOf_getElem_toNat (v : Nat) {j : Nat} (hj : j < 20) :
    (trackOf v)[j].toNat = trackDigit v j := trackOf_toNat v ⟨j, hj⟩

theorem routeOf_getElem_toNat (R : Nat) {j : Nat} (hj : j < 11) :
    (routeOf R)[j].toNat = routeDigit R j := routeOf_toNat R ⟨j, hj⟩

/-- The digits of `TRACK` from position 2 on, as a number. -/
theorem intOf_trackDigits (v : Nat) {j k : Nat} (hj : 2 ≤ j) (hjk : j + k ≤ 20) :
    intOf (digitBytes (digitsAt (trackOf v) j k)) = v / 10 ^ (20 - j - k) % 10 ^ k := by
  have hlen := digitsAt_length (trackOf v) hjk
  rw [intOf_digits _ (v / 10 ^ (20 - j - k)) fun i hi => ?_, hlen]
  have hi' : i < k := by rwa [hlen] at hi
  rw [digitsAt_getElem _ hi (by omega), trackOf_getElem_toNat, trackDigit, if_neg (by omega),
    if_neg (by omega), Nat.div_div_eq_div_mul, ← pow_add, hlen]
  congr 3
  omega

/-- The digits of `ROUTE` at the shape's position and above, as a number. -/
theorem intOf_routeDigits (R : Nat) {j k : Nat} (hj : (routingShape R).1 ≤ j) (hjk : j + k ≤ 11) :
    intOf (digitBytes (digitsAt (routeOf R) j k)) =
      (R - (routingShape R).2) / 10 ^ (11 - j - k) % 10 ^ k := by
  have hlen := digitsAt_length (routeOf R) hjk
  rw [intOf_digits _ ((R - (routingShape R).2) / 10 ^ (11 - j - k)) fun i hi => ?_, hlen]
  have hi' : i < k := by rwa [hlen] at hi
  rw [digitsAt_getElem _ hi (by omega), routeOf_getElem_toNat, routeDigit, if_neg (by omega),
    Nat.div_div_eq_div_mul, ← pow_add, hlen]
  congr 3
  omega

theorem digit_le_nine_of_track {v : Nat} {d : Digit} (h : d ∈ (trackOf v).toList) : d.toNat ≤ 9 := by
  obtain ⟨j, hj, rfl⟩ := List.getElem_of_mem h
  rw [Vector.length_toList] at hj
  rw [Vector.getElem_toList, trackOf_getElem_toNat]
  exact Nat.le_of_lt_succ (trackDigit_lt v j)

theorem digit_le_nine_of_route {R : Nat} {d : Digit} (h : d ∈ (routeOf R).toList) : d.toNat ≤ 9 := by
  obtain ⟨j, hj, rfl⟩ := List.getElem_of_mem h
  rw [Vector.length_toList] at hj
  rw [Vector.getElem_toList, routeOf_getElem_toNat]
  exact Nat.le_of_lt_succ (routeDigit_lt R j)

/-! ### The fields of the record -/

theorem absent_bytes : RecField.absent.bytes = [] := rfl

theorem tidyField_absent : tidyField .absent = .absent := by decide

/-- The mailer and the serial number split the fifteen digits after the service type. -/
theorem mailer_split (track : Vector Digit 20) (route : Vector Digit 11) (pos : Nat) :
    ∃ k k' : Nat, ((track[5] = 9 ∧ k = 9 ∧ k' = 6) ∨ (track[5] ≠ 9 ∧ k = 6 ∧ k' = 9)) ∧
      (recordOf track route pos).mid = strOf (digitsAt track 5 k) ∧
      (recordOf track route pos).ser = strOf (digitsAt track (5 + k) k') := by
  by_cases h : track[5] = 9
  · exact ⟨9, 6, .inl ⟨h, rfl, rfl⟩, if_pos h, if_pos h⟩
  · exact ⟨6, 9, .inr ⟨h, rfl, rfl⟩, if_neg h, if_neg h⟩

theorem mailer_bytes (track : Vector Digit 20) (route : Vector Digit 11) (pos : Nat) :
    (recordOf track route pos).mid.bytes ++ (recordOf track route pos).ser.bytes =
      digitBytes (digitsAt track 5 15) := by
  obtain ⟨k, k', hk, hmid, hser⟩ := mailer_split track route pos
  have hlen := digitsAt_length track (j := 5) (k := k) (by omega)
  have hlen' := digitsAt_length track (j := 5 + k) (k := k') (by omega)
  have hsum : k + k' = 15 := by omega
  rw [hmid, hser, strOf_bytes (by omega), strOf_bytes (by omega), ← digitBytes_append,
    digitsAt_append, hsum]

theorem tracking_bytes (track : Vector Digit 20) (route : Vector Digit 11) (pos : Nat) :
    (recordOf track route pos).bid.bytes ++ (recordOf track route pos).stc.bytes ++
        (recordOf track route pos).mid.bytes ++ (recordOf track route pos).ser.bytes =
      digitBytes track.toList := by
  have hbid : (recordOf track route pos).bid.bytes = digitBytes (digitsAt track 0 2) :=
    strOf_bytes (by rw [digitsAt_length] <;> omega)
  have hstc : (recordOf track route pos).stc.bytes = digitBytes (digitsAt track (0 + 2) 3) :=
    strOf_bytes (by rw [digitsAt_length] <;> omega)
  rw [hbid, hstc, List.append_assoc, mailer_bytes, ← digitBytes_append, digitsAt_append,
    ← digitBytes_append, digitsAt_append track 0 (2 + 3) 15, digitsAt_all track (by omega), List.drop_zero]

/-- The positions that `ROUTE` can start from (rule R32). -/
theorem routingShape_pos (R : Nat) : (routingShape R).1 = 11 ∨ (routingShape R).1 = 6 ∨
    (routingShape R).1 = 2 ∨ (routingShape R).1 = 0 := by
  unfold routingShape
  split_ifs <;> simp

section
variable (track : Vector Digit 20) (route : Vector Digit 11) {pos : Nat}

theorem recordOf_zip (h : pos ≤ 6) : (recordOf track route pos).zip = strOf (digitsAt route pos 5) :=
  if_pos h

theorem recordOf_zip_absent (h : 6 < pos) : (recordOf track route pos).zip = .absent :=
  if_neg (by omega)

theorem recordOf_p4 (h : pos ≤ 2) :
    (recordOf track route pos).p4 = strOf (digitsAt route (pos + 5) 4) := if_pos h

theorem recordOf_p4_absent (h : 2 < pos) : (recordOf track route pos).p4 = .absent :=
  if_neg (by omega)

theorem recordOf_dp (h : pos = 0) : (recordOf track route pos).dp = strOf (digitsAt route 9 2) :=
  if_pos h

theorem recordOf_dp_absent (h : pos ≠ 0) : (recordOf track route pos).dp = .absent := if_neg h

theorem bid_ch {k : Nat} (hk : k < 2) :
    (recordOf track route pos).bid.ch[k] = asciiOf track[k] := by
  have hlen : k < (digitsAt track 0 2).length := by rw [digitsAt_length] <;> omega
  refine (strOf_ch hlen (by omega)).trans ?_
  rw [digitsAt_getElem _ _ (by omega)]
  simp only [Nat.zero_add]

theorem stc_bytes : (recordOf track route pos).stc.bytes = digitBytes (digitsAt track 2 3) :=
  strOf_bytes (by rw [digitsAt_length] <;> omega)

theorem zip_bytes (h : pos ≤ 6) :
    (recordOf track route pos).zip.bytes = digitBytes (digitsAt route pos 5) := by
  rw [recordOf_zip track route h, strOf_bytes (by rw [digitsAt_length] <;> omega)]

theorem p4_bytes (h : pos ≤ 2) :
    (recordOf track route pos).p4.bytes = digitBytes (digitsAt route (pos + 5) 4) := by
  rw [recordOf_p4 track route h, strOf_bytes (by rw [digitsAt_length] <;> omega)]

theorem dp_bytes (h : pos = 0) :
    (recordOf track route pos).dp.bytes = digitBytes (digitsAt route 9 2) := by
  rw [recordOf_dp track route h, strOf_bytes (by rw [digitsAt_length] <;> omega)]

theorem routing_bytes (h : pos = 11 ∨ pos = 6 ∨ pos = 2 ∨ pos = 0) :
    (recordOf track route pos).zip.bytes ++ (recordOf track route pos).p4.bytes ++
      (recordOf track route pos).dp.bytes = digitBytes (route.toList.drop pos) := by
  rcases h with rfl | rfl | rfl | rfl
  · rw [recordOf_zip_absent _ _ (by decide), recordOf_p4_absent _ _ (by decide),
      recordOf_dp_absent _ _ (by decide), List.drop_of_length_le (by simp)]
    rfl
  · rw [zip_bytes _ _ (by decide), recordOf_p4_absent _ _ (by decide),
      recordOf_dp_absent _ _ (by decide), absent_bytes, List.append_nil, List.append_nil,
      digitsAt_all route (by decide)]
  · rw [zip_bytes _ _ (by decide), p4_bytes _ _ (by decide), recordOf_dp_absent _ _ (by decide),
      absent_bytes, List.append_nil, ← digitBytes_append, digitsAt_append,
      digitsAt_all route (by decide)]
  · rw [zip_bytes _ _ (by decide), p4_bytes _ _ (by decide), dp_bytes _ _ rfl, ← digitBytes_append,
      digitsAt_append, ← digitBytes_append, digitsAt_append route 0 (5 + 4) 2,
      digitsAt_all route (by decide)]

theorem tidyRecord_recordOf : tidyRecord (recordOf track route pos) = recordOf track route pos := by
  have hstr : ∀ {m j k : Nat} (v : Vector Digit m), j + k ≤ m → k ≤ 15 →
      tidyField (strOf (digitsAt v j k)) = strOf (digitsAt v j k) := fun v hm hk =>
    tidyField_strOf (by rw [digitsAt_length v hm]; exact hk)
  have hif : ∀ {c : Prop} [Decidable c] {x y : RecField}, (c → tidyField x = x) → tidyField y = y →
      tidyField (if c then x else y) = if c then x else y := fun hx hy => by
    split
    case isTrue h => exact hx h
    case isFalse => exact hy
  have hbid := hstr (j := 0) (k := 2) track (by decide) (by decide)
  have hstc := hstr (j := 2) (k := 3) track (by decide) (by decide)
  obtain ⟨k, k', hk, hmid, hser⟩ := mailer_split track route pos
  have hmid' : tidyField (recordOf track route pos).mid = (recordOf track route pos).mid := by
    rw [hmid]
    exact hstr track (by omega) (by omega)
  have hser' : tidyField (recordOf track route pos).ser = (recordOf track route pos).ser := by
    rw [hser]
    exact hstr track (by omega) (by omega)
  have hzip : tidyField (recordOf track route pos).zip = (recordOf track route pos).zip :=
    hif (fun h => hstr route (by omega) (by decide)) tidyField_absent
  have hp4 : tidyField (recordOf track route pos).p4 = (recordOf track route pos).p4 :=
    hif (fun h => hstr route (by omega) (by decide)) tidyField_absent
  have hdp : tidyField (recordOf track route pos).dp = (recordOf track route pos).dp :=
    hif (fun h => hstr route (by decide) (by decide)) tidyField_absent
  rw [tidyRecord, hmid', hser', hzip, hp4, hdp]
  exact (congrArg₂ (fun b c => { recordOf track route pos with bid := b, stc := c }) hbid hstc)

end

/-! ### The record unpacked is valid -/

/-- A field of `k` digits meets its condition of rule R181. -/
theorem digits_strOf {m j k : Nat} (v : Vector Digit m) (hm : j + k ≤ m) (hk : k ≤ 15)
    (hv : ∀ d ∈ v.toList, d.toNat ≤ 9) :
    lenIs (strOf (digitsAt v j k)) k = true ∧ digitsBelow k (strOf (digitsAt v j k)) = true := by
  have hlen := digitsAt_length v hm
  refine ⟨?_, ?_⟩
  · rw [lenIs, strOf_len_toNat (by omega), hlen, decide_eq_true rfl]
  · have := digitsBelow_strOf (ds := digitsAt v j k) fun d hd => hv d (mem_digitsAt hd)
    rwa [hlen] at this

theorem valid_recordOf {track : Vector Digit 20} {route : Vector Digit 11} (pos : Nat)
    (ht : ∀ d ∈ track.toList, d.toNat ≤ 9) (hr : ∀ d ∈ route.toList, d.toNat ≤ 9)
    (ht1 : track[1].toNat ≤ 4) : validRecord (recordOf track route pos) := by
  obtain ⟨k, k', hk, hmid, hser⟩ := mailer_split track route pos
  have hmlen : (strOf (digitsAt track 5 k)).len.toNat = k := by
    rw [strOf_len_toNat (by rw [digitsAt_length] <;> omega), digitsAt_length _ (by omega)]
  have hslen : (strOf (digitsAt track (5 + k) k')).len.toNat = k' := by
    rw [strOf_len_toNat (by rw [digitsAt_length] <;> omega), digitsAt_length _ (by omega)]
  have hempty : lenIs .absent 0 = true := rfl
  have hnonempty : ∀ f : RecField, lenIs f 5 = true → lenIs f 0 = false := fun f hf => by
    simp only [lenIs, decide_eq_true_eq, decide_eq_false_iff_not] at hf ⊢
    omega
  have hnonempty' : ∀ f : RecField, lenIs f 4 = true → lenIs f 0 = false := fun f hf => by
    simp only [lenIs, decide_eq_true_eq, decide_eq_false_iff_not] at hf ⊢
    omega
  have hzip : lenIs (recordOf track route pos).zip 0 = true ∧ 6 < pos ∨
      lenIs (recordOf track route pos).zip 5 = true ∧
        digitsBelow 5 (recordOf track route pos).zip = true := by
    by_cases h : pos ≤ 6
    · rw [recordOf_zip _ _ h]
      exact .inr (digits_strOf route (by omega) (by decide) hr)
    · rw [recordOf_zip_absent _ _ (by omega)]
      exact .inl ⟨hempty, by omega⟩
  have hp4 : lenIs (recordOf track route pos).p4 0 = true ∧ 2 < pos ∨ pos ≤ 2 ∧
      lenIs (recordOf track route pos).p4 4 = true ∧
        digitsBelow 4 (recordOf track route pos).p4 = true := by
    by_cases h : pos ≤ 2
    · rw [recordOf_p4 _ _ h]
      exact .inr ⟨h, digits_strOf route (by omega) (by decide) hr⟩
    · rw [recordOf_p4_absent _ _ (by omega)]
      exact .inl ⟨hempty, by omega⟩
  have hdp : lenIs (recordOf track route pos).dp 0 = true ∨ pos = 0 ∧
      lenIs (recordOf track route pos).dp 2 = true ∧
        digitsBelow 2 (recordOf track route pos).dp = true := by
    by_cases h : pos = 0
    · rw [recordOf_dp _ _ h]
      exact .inr ⟨h, digits_strOf route (by decide) (by decide) hr⟩
    · rw [recordOf_dp_absent _ _ h]
      exact .inl hempty
  have hbid : lenIs (recordOf track route pos).bid 2 = true ∧ _ :=
    digits_strOf track (j := 0) (by decide) (by decide) ht
  have hstc : lenIs (recordOf track route pos).stc 3 = true ∧ _ :=
    digits_strOf track (j := 2) (by decide) (by decide) ht
  have hbid1 : (recordOf track route pos).bid.ch[1].toNat ≤ 0x34 := by
    rw [bid_ch _ _ (by decide), asciiOf_eq, BitVec.toNat_ofNat]
    omega
  have hmailer : digitsBelow k (recordOf track route pos).mid = true := by
    rw [hmid]
    exact (digits_strOf track (by omega) (by omega) ht).2
  have hserial : digitsBelow k' (recordOf track route pos).ser = true := by
    rw [hser]
    exact (digits_strOf track (by omega) (by omega) ht).2
  have hml : (recordOf track route pos).mid.len.toNat = k := by rw [hmid, hmlen]
  have hsl : (recordOf track route pos).ser.len.toNat = k' := by rw [hser, hslen]
  simp only [validRecord, validityTests, List.forall_mem_cons, Bool.or_eq_true, Bool.and_eq_true,
    Bool.not_eq_true', decide_eq_true_eq, List.not_mem_nil, false_imp_iff, implies_true, and_true]
  refine ⟨hzip.imp_left (·.1), hp4.imp (·.1) fun h => ?_, hp4.imp (·.1) (·.2), hdp.imp_right (·.2),
    hdp.imp_right fun h => ?_, hbid, hbid1, hstc, ⟨?_, ?_⟩, by omega, ?_⟩
  · obtain ⟨hzlen, -⟩ := hzip.resolve_left (by omega)
    exact hnonempty _ hzlen
  · obtain ⟨-, hplen, -⟩ := hp4.resolve_left (by omega)
    exact hnonempty' _ hplen
  · simp only [lenIs, decide_eq_true_eq]
    omega
  · rw [hml]
    exact hmailer
  · rw [hsl]
    exact hserial

theorem valid_unpackedRecord (v : Nat) : validRecord (unpackedRecord v) := by
  refine valid_recordOf _ (fun _ => digit_le_nine_of_track) (fun _ => digit_le_nine_of_route) ?_
  rw [trackOf_getElem_toNat, trackDigit, if_neg (by decide), if_pos rfl]
  omega

/-! ### Its payload -/

theorem trackingInt_unpackedRecord (v : Nat) :
    Pack.trackingInt (unpackedRecord v) = v % (5 * 10 ^ 19) := by
  have hch : ∀ k (hk : k < 2),
      digitOf ((unpackedRecord v).bid.ch[k]) = trackDigit v k := fun k hk => by
    rw [unpackedRecord, bid_ch _ _ hk, digitOf_asciiOf, trackOf_getElem_toNat]
  have hstc : fieldInt (unpackedRecord v).stc = v / 10 ^ 15 % 10 ^ 3 := by
    rw [fieldInt, unpackedRecord, stc_bytes, intOf_trackDigits v (by decide) (by decide)]
  have hmailer : intOf ((unpackedRecord v).mid.bytes ++ (unpackedRecord v).ser.bytes) =
      v % 10 ^ 15 := by
    rw [unpackedRecord, mailer_bytes, intOf_trackDigits v (by decide) (by decide)]
    simp
  have h0 := hch 0 (by decide)
  have h1 := hch 1 (by decide)
  rw [trackDigit, if_pos rfl] at h0
  rw [trackDigit, if_neg (by decide), if_pos rfl] at h1
  rw [Pack.trackingInt, h0, h1, hstc, hmailer]
  omega

theorem present_strOf {ds : List Digit} (h : ds ≠ []) (h' : ds.length ≤ 15) :
    (strOf ds).present = true := by
  have hpos := List.length_pos_iff.mpr h
  have hlen := strOf_len_toNat h'
  rw [RecField.present, bne_iff_ne]
  intro hz
  rw [hz] at hlen
  simp at hlen
  omega

theorem routingValue_unpackedRecord {v : Nat} (h : v / (5 * 10 ^ 19) ≤ lastRouting) :
    routingValue (unpackedRecord v) = v / (5 * 10 ^ 19) := by
  unfold unpackedRecord
  generalize v / (5 * 10 ^ 19) = R at h ⊢
  generalize trackOf v = track
  have hlast : lastRouting = 101000100000 := rfl
  have hpresent : ∀ {m j k : Nat} (x : Vector Digit m), j + k ≤ m → k ≤ 15 → 0 < k →
      (strOf (digitsAt x j k)).present = true := fun x hm hk hk0 => by
    have hlen := digitsAt_length x hm
    exact present_strOf (List.ne_nil_of_length_pos (by omega)) (by omega)
  have hnot : ¬ RecField.absent.present = true := by decide
  unfold routingValue
  by_cases h0 : R = 0
  · subst h0
    rw [recordOf_zip_absent _ _ (by decide), recordOf_p4_absent _ _ (by decide),
      recordOf_dp_absent _ _ (by decide), if_neg hnot, if_neg hnot, if_neg hnot]
  by_cases h1 : R ≤ 100000
  · have hshape := routingShape_zip h0 h1
    have hpos : (routingShape R).1 = 6 := by rw [hshape]
    have hz := intOf_routeDigits R (j := 6) (k := 5) (by omega) (by decide)
    rw [hpos, recordOf_p4_absent _ _ (by decide), recordOf_dp_absent _ _ (by decide), if_neg hnot,
      if_neg hnot, fieldInt, zip_bytes _ _ (by decide), hz, recordOf_zip _ _ (by decide),
      if_pos (hpresent _ (by decide) (by decide) (by decide)), hshape]
    simp only
    omega
  by_cases h2 : R ≤ 1000100000
  · have hshape := routingShape_plus4 (by omega) h2
    have hpos : (routingShape R).1 = 2 := by rw [hshape]
    have hz := intOf_routeDigits R (j := 2) (k := 5) (by omega) (by decide)
    have hp := intOf_routeDigits R (j := 2 + 5) (k := 4) (by omega) (by decide)
    rw [hpos, recordOf_dp_absent _ _ (by decide), if_neg hnot, fieldInt, fieldInt,
      zip_bytes _ _ (by decide), p4_bytes _ _ (by decide), hz, hp, recordOf_p4 _ _ (by decide),
      if_pos (hpresent _ (by decide) (by decide) (by decide)), hshape]
    simp only
    omega
  · have hshape := routingShape_delivery (R := R) (by omega)
    have hpos : (routingShape R).1 = 0 := by rw [hshape]
    have hz := intOf_routeDigits R (j := 0) (k := 5) (by omega) (by decide)
    have hp := intOf_routeDigits R (j := 0 + 5) (k := 4) (by omega) (by decide)
    have hd := intOf_routeDigits R (j := 9) (k := 2) (by omega) (by decide)
    rw [hpos, fieldInt, fieldInt, fieldInt, zip_bytes _ _ (by decide), p4_bytes _ _ (by decide),
      dp_bytes _ _ rfl, hz, hp, hd, recordOf_dp _ _ rfl,
      if_pos (hpresent _ (by decide) (by decide) (by decide)), hshape]
    simp only
    omega

/-- Packing the record that was unpacked gives the value back (rule R187). -/
theorem payloadOf_unpackedRecord {v : Nat} (h : v / (5 * 10 ^ 19) ≤ lastRouting) :
    payloadOf (unpackedRecord v) = v := by
  rw [Pack.payloadOf_eq, routingValue_unpackedRecord h, trackingInt_unpackedRecord]
  exact Nat.div_add_mod' v _

end Sys2Proof.Proofs.UnpackRecord
end

section
/-! SUPPORT. `PAY.PACK` and `PAY.UNPACK` undo each other (spec/45_payload.md rules R186, R187). -/

namespace Sys2Proof.Proofs.UnpackPack

open Sys2Proof Sys2Proof.Machine Sys2Proof.Proofs.Unpack Sys2Proof.Proofs.UnpackRun

set_option Elab.async false
open Sys2Proof.Proofs.UnpackRecord

set_option Elab.async false

/-! ### A field is the digits of its number -/

/-- Digit bytes of one length and one value are the same bytes. -/
theorem intOf_injective : ∀ (l l' : List Byte), l.length = l'.length → l.all isDigit = true →
    l'.all isDigit = true → intOf l = intOf l' → l = l' := by
  intro l
  induction l using List.reverseRecOn with
  | nil => intro l' hlen _ _ _; exact (List.length_eq_zero_iff.mp hlen.symm).symm
  | append_singleton l b ih =>
    intro l' hlen hl hl' hint
    obtain rfl | ⟨l', b', rfl⟩ := l'.eq_nil_or_concat'
    · simp at hlen
    simp only [List.all_append, List.all_cons, List.all_nil, Bool.and_true, Bool.and_eq_true, isDigit,
      decide_eq_true_eq, List.length_append, List.length_singleton] at hl hl' hlen
    rw [intOf_concat, intOf_concat] at hint
    obtain ⟨hl, hb⟩ := hl
    obtain ⟨hl', hb'⟩ := hl'
    unfold digitOf at hint
    have hbb : b = b' := BitVec.eq_of_toNat_eq (by omega)
    rw [ih l' (by omega) hl hl' (by omega), hbb]

theorem digitBytes_all {ds : List Digit} (hds : ∀ d ∈ ds, d.toNat ≤ 9) :
    (digitBytes ds).all isDigit = true := by
  simp only [digitBytes, List.all_map, List.all_eq_true, Function.comp_apply, isDigit,
    decide_eq_true_eq, BitVec.toNat_ofNat]
  intro d hd
  have := hds d hd
  omega

theorem bytes_all {k : Nat} {f : RecField} (hlen : lenIs f k = true) (h : digitsBelow k f = true) :
    f.bytes.all isDigit = true := by
  rw [lenIs, decide_eq_true_eq] at hlen
  rw [← hlen, ← Encoder.allDigits_eq_digitsBelow] at h
  exact h

theorem ch_of_bytes {f f' : RecField} (hlen : f.len = f'.len) (h : f.bytes = f'.bytes) :
    tidyField f = tidyField f' := by
  have hch : (tidyField f).ch = (tidyField f').ch := by
    refine Vector.ext fun k hk => ?_
    simp only [tidyField, Vector.getElem_ofFn, ← hlen]
    by_cases hlt : k < f.len.toNat
    · have hget := congrArg (·[k]?) h
      simp only [RecField.bytes, ← hlen, List.getElem?_take, if_pos hlt] at hget
      rw [if_pos hlt, if_pos hlt]
      simpa [hk] using hget
    · rw [if_neg hlt, if_neg hlt]
  cases f
  cases f'
  obtain rfl := hlen
  exact congrArg (RecField.mk _) hch

theorem tidyField_of_bytes {f : RecField} {ds : List Digit} (hds : ds.length ≤ 15)
    (h : f.bytes = digitBytes ds) : tidyField f = strOf ds := by
  have hlen : f.len = (strOf ds).len := BitVec.eq_of_toNat_eq (by
    rw [strOf_len_toNat hds, ← Pack.length_bytes, h, digitBytes, List.length_map])
  rw [← tidyField_strOf hds, ch_of_bytes hlen (h.trans (strOf_bytes hds).symm)]

/-- A field of `k` digits is the string of the digits of its number. -/
theorem tidyField_of_int {k : Nat} {f : RecField} {ds : List Digit} (hk : k ≤ 15)
    (hf : lenIs f k = true ∧ digitsBelow k f = true) (hlen : ds.length = k)
    (hds : ∀ d ∈ ds, d.toNat ≤ 9) (hint : fieldInt f = intOf (digitBytes ds)) :
    tidyField f = strOf ds := by
  refine tidyField_of_bytes (by omega) (intOf_injective _ _ ?_ (bytes_all hf.1 hf.2)
    (digitBytes_all hds) hint)
  have hflen := hf.1
  rw [lenIs, decide_eq_true_eq] at hflen
  rw [Pack.length_bytes, digitBytes, List.length_map, hlen, hflen]

theorem tidyField_of_absent {f : RecField} (h : lenIs f 0 = true) : tidyField f = .absent := by
  have hbytes : f.bytes = digitBytes [] := List.length_eq_zero_iff.mp (by
    rw [Pack.length_bytes]
    exact of_decide_eq_true h)
  exact (tidyField_of_bytes (by decide) hbytes).trans (by decide)

/-! ### The fields of a valid record, from its payload -/

/-- The parts of rule R181 that the fields' digits come from. -/
structure FieldDigits (r : Record) : Prop where
  zip : r.zip.present = true → lenIs r.zip 5 = true ∧ digitsBelow 5 r.zip = true
  p4 : r.p4.present = true → lenIs r.p4 4 = true ∧ digitsBelow 4 r.p4 = true
  dp : r.dp.present = true → lenIs r.dp 2 = true ∧ digitsBelow 2 r.dp = true
  bid : lenIs r.bid 2 = true ∧ digitsBelow 2 r.bid = true
  stc : lenIs r.stc 3 = true ∧ digitsBelow 3 r.stc = true
  mid : digitsBelow r.mid.len.toNat r.mid = true
  ser : digitsBelow r.ser.len.toNat r.ser = true

theorem fieldDigits_of_valid {r : Record} (h : validRecord r) : FieldDigits r := by
  simp only [validRecord, validityTests, List.forall_mem_cons, Bool.or_eq_true, Bool.and_eq_true] at h
  obtain ⟨hzip, -, hp4, hdp, -, hbid, -, hstc, ⟨-, hmid⟩, -, hser, -⟩ := h
  have hpresent : ∀ f : RecField, f.present = true → ¬ lenIs f 0 = true := fun f hf hc => by
    rw [Encoder.present_eq, hc] at hf
    cases hf
  exact {
    zip := fun hf => hzip.resolve_left (hpresent _ hf)
    p4 := fun hf => hp4.resolve_left (hpresent _ hf)
    dp := fun hf => hdp.resolve_left (hpresent _ hf)
    bid := hbid
    stc := hstc
    mid := hmid
    ser := hser }

theorem lenIs_zero_of_not_present {f : RecField} (h : ¬ f.present = true) : lenIs f 0 = true := by
  rw [Encoder.present_eq, Bool.not_eq_true', Bool.not_eq_false] at h
  exact h

/-- The routing fields are those of the routing value's shape and digits (rules R180, R186). -/
theorem tidy_routing {r : Record} (h : validRecord r) (track : Vector Digit 20) :
    let q := recordOf track (routeOf (routingValue r)) (routingShape (routingValue r)).1
    tidyField r.zip = q.zip ∧ tidyField r.p4 = q.p4 ∧ tidyField r.dp = q.dp := by
  intro q
  have hranges := Encoder.packRanges_of_valid h
  have hfields := fieldDigits_of_valid h
  obtain ⟨hp4, hdp⟩ := Pack.shape_of_valid h
  have hzlt := hranges.zip
  have hplt := hranges.p4
  have hdlt := hranges.dp
  have hdigits : ∀ {f : RecField} {j k : Nat}, (lenIs f k = true ∧ digitsBelow k f = true) →
      j + k ≤ 11 → (routingShape (routingValue r)).1 ≤ j →
      fieldInt f = (routingValue r - (routingShape (routingValue r)).2) / 10 ^ (11 - j - k) % 10 ^ k →
      tidyField f = strOf (digitsAt (routeOf (routingValue r)) j k) := fun hf hjk hj hint =>
    tidyField_of_int (by omega) hf (digitsAt_length _ hjk)
      (fun d hd => digit_le_nine_of_route (mem_digitsAt hd))
      (hint.trans (intOf_routeDigits _ hj hjk).symm)
  by_cases hz : r.zip.present = true
  case neg =>
    have hnp : ¬ r.p4.present = true := fun hc => hz (hp4 hc)
    have hnd : ¬ r.dp.present = true := fun hc => hnp (hdp hc)
    have hR : routingValue r = 0 := by rw [routingValue, if_neg hnd, if_neg hnp, if_neg hz]
    have hpos : (routingShape (routingValue r)).1 = 11 := by rw [hR]; rfl
    simp only [q, hpos]
    rw [recordOf_zip_absent _ _ (by decide), recordOf_p4_absent _ _ (by decide),
      recordOf_dp_absent _ _ (by decide)]
    exact ⟨tidyField_of_absent (lenIs_zero_of_not_present hz),
      tidyField_of_absent (lenIs_zero_of_not_present hnp),
      tidyField_of_absent (lenIs_zero_of_not_present hnd)⟩
  have hzval := hzlt hz
  by_cases hp : r.p4.present = true
  case neg =>
    have hnd : ¬ r.dp.present = true := fun hc => hp (hdp hc)
    have hR : routingValue r = fieldInt r.zip + 1 := by
      rw [routingValue, if_neg hnd, if_neg hp, if_pos hz]
    have hshape := routingShape_zip (R := routingValue r) (by omega) (by omega)
    have hpos : (routingShape (routingValue r)).1 = 6 := by rw [hshape]
    simp only [q, hpos]
    rw [recordOf_zip _ _ (by decide), recordOf_p4_absent _ _ (by decide),
      recordOf_dp_absent _ _ (by decide)]
    refine ⟨hdigits (hfields.zip hz) (by decide) (by omega) ?_,
      tidyField_of_absent (lenIs_zero_of_not_present hp),
      tidyField_of_absent (lenIs_zero_of_not_present hnd)⟩
    simp only [hshape]
    omega
  have hpval := hplt hp
  by_cases hd : r.dp.present = true
  case neg =>
    have hR : routingValue r = fieldInt r.zip * 10 ^ 4 + fieldInt r.p4 + 100001 := by
      rw [routingValue, if_neg hd, if_pos hp]
    have hshape := routingShape_plus4 (R := routingValue r) (by omega) (by omega)
    have hpos : (routingShape (routingValue r)).1 = 2 := by rw [hshape]
    simp only [q, hpos]
    rw [recordOf_zip _ _ (by decide), recordOf_p4 _ _ (by decide), recordOf_dp_absent _ _ (by decide)]
    refine ⟨hdigits (hfields.zip hz) (by decide) (by omega) ?_,
      hdigits (hfields.p4 hp) (by decide) (by omega) ?_,
      tidyField_of_absent (lenIs_zero_of_not_present hd)⟩
    · simp only [hshape]
      omega
    · simp only [hshape]
      omega
  have hdval := hdlt hd
  have hR : routingValue r =
      (fieldInt r.zip * 10 ^ 4 + fieldInt r.p4) * 100 + fieldInt r.dp + 1000100001 := by
    rw [routingValue, if_pos hd]
  have hshape := routingShape_delivery (R := routingValue r) (by omega)
  have hpos : (routingShape (routingValue r)).1 = 0 := by rw [hshape]
  simp only [q, hpos]
  rw [recordOf_zip _ _ (by decide), recordOf_p4 _ _ (by decide), recordOf_dp _ _ rfl]
  refine ⟨hdigits (hfields.zip hz) (by decide) (by omega) ?_,
    hdigits (hfields.p4 hp) (by decide) (by omega) ?_,
    hdigits (hfields.dp hd) (by decide) (by omega) ?_⟩ <;> simp only [hshape] <;> omega

/-- Two digits are the first two bytes of the field. -/
theorem bytes_of_two {f : RecField} (h : lenIs f 2 = true) : f.bytes = [f.ch[0], f.ch[1]] := by
  have hlen : f.len.toNat = 2 := of_decide_eq_true h
  refine List.ext_getElem (by rw [Pack.length_bytes, hlen]; rfl) fun k hk hk' => ?_
  simp only [List.length_cons, List.length_nil] at hk'
  interval_cases k <;> simp [RecField.bytes]

/-- The digits of `TRACK` below the mailer, and the fifteen from there on, are those of the record. -/
theorem tracking_digits {r : Record} (h : validRecord r) {v : Nat}
    (hv : v % (5 * 10 ^ 19) = Pack.trackingInt r) :
    tidyField r.bid = strOf (digitsAt (trackOf v) 0 2) ∧
    tidyField r.stc = strOf (digitsAt (trackOf v) 2 3) ∧
    r.mid.bytes ++ r.ser.bytes = digitBytes (digitsAt (trackOf v) 5 15) := by
  have hranges := Encoder.packRanges_of_valid h
  have hfields := fieldDigits_of_valid h
  have hbid0 := hranges.bid0
  have hbid1 := hranges.bid1
  have hstc := hranges.stc
  have hmailer := Pack.mailerInt_lt h
  have hlow : ∀ {j k : Nat}, ∀ d ∈ digitsAt (trackOf v) j k, d.toNat ≤ 9 := fun d hd =>
    digit_le_nine_of_track (mem_digitsAt hd)
  rw [Pack.trackingInt] at hv
  refine ⟨?_, ?_, ?_⟩
  · have h0 := trackOf_getElem_toNat v (j := 0) (by decide)
    have h1 := trackOf_getElem_toNat v (j := 1) (by decide)
    rw [trackDigit, if_pos rfl] at h0
    rw [trackDigit, if_neg (by decide), if_pos rfl] at h1
    have htwo : digitsAt (trackOf v) 0 2 = [(trackOf v)[0], (trackOf v)[1]] := by
      refine List.ext_getElem (digitsAt_length _ (by decide)) fun k hk hk' => ?_
      rw [digitsAt_getElem _ hk (by rw [digitsAt_length] at hk <;> omega)]
      simp only [List.length_cons, List.length_nil] at hk'
      interval_cases k <;> rfl
    refine tidyField_of_int (by decide) hfields.bid (digitsAt_length _ (by decide)) hlow ?_
    rw [fieldInt, bytes_of_two hfields.bid.1, htwo]
    simp only [intOf, digitBytes, List.foldl_cons, List.foldl_nil, List.map_cons, List.map_nil,
      ← asciiOf_eq, digitOf_asciiOf, h0, h1]
    omega
  · refine tidyField_of_int (by decide) hfields.stc (digitsAt_length _ (by decide)) hlow ?_
    rw [intOf_trackDigits v (by decide) (by decide)]
    omega
  · refine intOf_injective _ _ ?_ ?_ (digitBytes_all hlow) ?_
    · rw [List.length_append, Pack.length_bytes, Pack.length_bytes, digitBytes, List.length_map,
        digitsAt_length _ (by decide)]
      rcases Pack.mailer_lengths h with ⟨hm, hs⟩ | ⟨hm, hs⟩ <;> rw [hm, hs] <;> rfl
    · rw [List.all_append, bytes_all (decide_eq_true rfl) hfields.mid,
        bytes_all (decide_eq_true rfl) hfields.ser]
      rfl
    · rw [intOf_trackDigits v (by decide) (by decide)]
      omega

/-- A valid record that meets the mailer condition is the record that its payload unpacks to. -/
theorem unpackedRecord_payloadOf {r : Record} (h : validRecord r) (hm : mailerCondition r) :
    unpackedRecord (payloadOf r) = tidyRecord r := by
  have htlt := Pack.trackingInt_lt h
  have heq := Pack.payloadOf_eq r
  have hmod : payloadOf r % (5 * 10 ^ 19) = Pack.trackingInt r := by omega
  have hdiv : payloadOf r / (5 * 10 ^ 19) = routingValue r := by omega
  obtain ⟨hbid, hstc, hmailer⟩ := tracking_digits h hmod
  rw [unpackedRecord, hdiv]
  generalize htrack : trackOf (payloadOf r) = track at *
  obtain ⟨hzip, hp4, hdp⟩ := tidy_routing h track
  have hfirst : r.mid.ch[0] = asciiOf track[5] := by
    have hget := congrArg (·[0]?) hmailer
    have hpos : 0 < r.mid.len.toNat := by
      rcases Pack.mailer_lengths h with ⟨hm6, -⟩ | ⟨hm9, -⟩
      · rw [hm6]; decide
      · rw [hm9]; decide
    have hlen : 0 < (digitsAt track 5 15).length := by rw [digitsAt_length] <;> decide
    simp only [digitBytes] at hget
    rw [List.getElem?_append_left (by rw [Pack.length_bytes]; exact hpos), List.getElem?_map,
      List.getElem?_eq_getElem hlen, digitsAt_getElem _ _ (by decide), RecField.bytes,
      List.getElem?_take, if_pos hpos] at hget
    simpa [asciiOf_eq] using hget
  have hnine : r.mid.len = 9 ↔ track[5] = 9 := by
    have hinj : ∀ d : Digit, asciiOf d = 0x39 ↔ d = 9 := by decide
    exact hm.trans (by rw [hfirst, hinj])
  obtain ⟨k, k', hk, hmid, hser⟩ := mailer_split track (routeOf (routingValue r))
    (routingShape (routingValue r)).1
  have hklen : r.mid.len.toNat = k := by
    rcases hk with ⟨h9, rfl, -⟩ | ⟨h9, rfl, -⟩
    · rw [hnine.mpr h9]; rfl
    · rcases Pack.mailer_lengths h with ⟨hm6, -⟩ | ⟨hm9, -⟩
      · rw [hm6]; rfl
      · exact absurd (hnine.mp hm9) h9
  have hsum : 15 = k + k' := by omega
  rw [hsum, ← digitsAt_append, digitBytes_append] at hmailer
  obtain ⟨hmb, hsb⟩ := List.append_inj hmailer (by
    rw [Pack.length_bytes, digitBytes, List.length_map, digitsAt_length _ (by omega), hklen])
  have hmid' := tidyField_of_bytes (by rw [digitsAt_length] <;> omega) hmb
  have hser' := tidyField_of_bytes (by rw [digitsAt_length] <;> omega) hsb
  rw [tidyRecord, hbid, hstc, hmid', hser', hzip, hp4, hdp, ← hmid, ← hser]
  rfl

/-- The record unpacked always meets the mailer condition (rule R187). -/
theorem mailerCondition_unpackedRecord (v : Nat) : mailerCondition (unpackedRecord v) := by
  obtain ⟨k, k', hk, hmid, -⟩ := mailer_split (trackOf v) (routeOf (v / (5 * 10 ^ 19)))
    (routingShape (v / (5 * 10 ^ 19))).1
  have hlen := digitsAt_length (trackOf v) (j := 5) (k := k) (by omega)
  have hpos : 0 < (digitsAt (trackOf v) 5 k).length := by omega
  have hinj : ∀ d : Digit, asciiOf d = 0x39 ↔ d = 9 := by decide
  rw [mailerCondition, unpackedRecord, hmid, strOf_ch hpos (by decide), digitsAt_getElem _ _ (by decide),
    hinj, strOf_len, hlen]
  show BitVec.ofNat 4 k = 9 ↔ (trackOf v)[5] = 9
  rcases hk with ⟨h9, rfl, -⟩ | ⟨h9, rfl, -⟩
  · exact ⟨fun _ => h9, fun _ => rfl⟩
  · exact ⟨fun hc => absurd hc (by decide), fun hc => absurd hc h9⟩

theorem mailerCondition_tidyRecord {r : Record} (h : validRecord r) :
    mailerCondition (tidyRecord r) ↔ mailerCondition r := by
  have hpos : 0 < r.mid.len.toNat := by
    rcases Pack.mailer_lengths h with ⟨hm6, -⟩ | ⟨hm9, -⟩
    · rw [hm6]; decide
    · rw [hm9]; decide
  have hch : (tidyRecord r).mid.ch[0] = r.mid.ch[0] := by
    simp only [tidyRecord, tidyField, Vector.getElem_ofFn]
    exact if_pos hpos
  rw [mailerCondition, mailerCondition, hch]
  rfl

/-! ### The commands -/

theorem routing_le_of_valid {r : Record} (h : validRecord r) :
    payloadOf r / (5 * 10 ^ 19) ≤ lastRouting := by
  have hlt := (Pack.payPack_value (s := { State.reset with record := r }) h).2
  simp only at hlt
  omega

theorem exec_payUnpack_of_le {s : State} (hf : s.status.fault = 0)
    (h : val s.n / (5 * 10 ^ 19) ≤ lastRouting) :
    exec .payUnpack s = .next (unpacked { s with status := .zero }) :=
  command_ok (body := payUnpack) hf (payUnpack_of_le (s := { s with status := .zero }) h)

theorem exec_payPack_of_valid {s : State} (hf : s.status.fault = 0) (h : validRecord s.record) :
    ∃ n : Limbs, exec .payPack s = .next { s with status := .zero, n := n } ∧
      val n = payloadOf s.record := by
  obtain ⟨⟨n, hrun, hn⟩, -⟩ := Pack.payPack_value (s := { s with status := .zero }) h
  exact ⟨n, command_ok (body := payPack) hf hrun, hn⟩

/-- The lengths of the fields unpacked, by the split and the shape. -/
theorem recordOf_lengths (track : Vector Digit 20) (route : Vector Digit 11) {pos : Nat}
    (hpos : pos = 11 ∨ pos = 6 ∨ pos = 2 ∨ pos = 0) :
    let r := recordOf track route pos
    let rpos := BitVec.ofNat 4 pos
    r.bid.len = 2 ∧ r.stc.len = 3 ∧ r.mid.len = (if track[5] = 9 then 9 else 6) ∧
      r.ser.len = (if track[5] = 9 then 6 else 9) ∧ r.zip.len = (if rpos = 11 then 0 else 5) ∧
      r.p4.len = (if rpos = 2 ∨ rpos = 0 then 4 else 0) ∧ r.dp.len = (if rpos = 0 then 2 else 0) := by
  intro r rpos
  have hlen : ∀ {m j k : Nat} (v : Vector Digit m), j + k ≤ m →
      (strOf (digitsAt v j k)).len = BitVec.ofNat 4 k := fun v h => by
    rw [strOf_len, digitsAt_length v h]
  refine ⟨hlen track (by decide), hlen track (by decide), ?_, ?_, ?_⟩
  · show (if track[5] = 9 then strOf (digitsAt track 5 9) else strOf (digitsAt track 5 6)).len = _
    rw [apply_ite RecField.len, hlen track (by decide), hlen track (by decide)]
    rfl
  · show (if track[5] = 9 then strOf (digitsAt track 14 6) else strOf (digitsAt track 11 9)).len = _
    rw [apply_ite RecField.len, hlen track (by decide), hlen track (by decide)]
    rfl
  · rcases hpos with rfl | rfl | rfl | rfl
    · exact ⟨rfl, rfl, rfl⟩
    · exact ⟨hlen route (by decide), rfl, rfl⟩
    · exact ⟨hlen route (by decide), hlen route (by decide), rfl⟩
    · exact ⟨hlen route (by decide), hlen route (by decide), hlen route (by decide)⟩

/-- Settles O36. -/
theorem unpackTakesThePayloadApart : Obligations.UnpackTakesThePayloadApart := by
  refine ⟨by decide, fun s hf => ⟨trackOf (val s.n), routeOf (val s.n / (5 * 10 ^ 19)),
    trackOf_toNat _, routeOf_toNat _, fun hle => ?_, fun hgt => ?_⟩⟩
  · have hpos := routingShape_pos (val s.n / (5 * 10 ^ 19))
    obtain ⟨hbid, hstc, hmid, hser, hzip, hp4, hdp⟩ := recordOf_lengths (trackOf (val s.n))
      (routeOf (val s.n / (5 * 10 ^ 19))) hpos
    have hrpos : (BitVec.ofNat 4 (routingShape (val s.n / (5 * 10 ^ 19))).1).toNat =
        (routingShape (val s.n / (5 * 10 ^ 19))).1 := by
      rw [BitVec.toNat_ofNat]
      exact Nat.mod_eq_of_lt (by omega)
    refine ⟨BitVec.ofNat 4 (routingShape (val s.n / (5 * 10 ^ 19))).1, unpackedRecord (val s.n),
      exec_payUnpack_of_le hf hle, hrpos, hbid, hstc, hmid, hser, hzip, hp4, hdp,
      tracking_bytes _ _ _, ?_, valid_unpackedRecord _, tidyRecord_recordOf _ _,
      payloadOf_unpackedRecord hle⟩
    rw [hrpos]
    exact routing_bytes _ _ hpos
  · obtain ⟨n, hn, hrun⟩ := payUnpack_of_gt (s := { s with status := .zero }) hgt
    exact ⟨n, command_raised (body := payUnpack) hf hrun, hn⟩

/-- Settles O37. -/
theorem unpackOfPackIsTheRecord : Obligations.UnpackOfPackIsTheRecord := by
  intro s hf hvalid
  obtain ⟨n, hpack, hn⟩ := exec_payPack_of_valid hf hvalid
  have hrun := exec_payUnpack_of_le (s := { s with status := .zero, n := n }) rfl
    (by rw [hn]; exact routing_le_of_valid hvalid)
  refine ⟨_, _, hpack, hrun, rfl, ?_⟩
  show unpackedRecord (val n) = tidyRecord s.record ↔ _
  rw [hn]
  refine ⟨fun h => ?_, unpackedRecord_payloadOf hvalid⟩
  rw [← mailerCondition_tidyRecord hvalid, ← h]
  exact mailerCondition_unpackedRecord _

/-- Settles O38. -/
theorem packOfUnpackIsThePayload : Obligations.PackOfUnpackIsThePayload := by
  intro s hf hle
  obtain ⟨n, hpack, hn⟩ := exec_payPack_of_valid (s := unpacked { s with status := .zero }) rfl
    (valid_unpackedRecord _)
  refine ⟨_, _, exec_payUnpack_of_le hf hle, hpack, rfl, val_injective ?_⟩
  exact hn.trans (payloadOf_unpackedRecord hle)

end Sys2Proof.Proofs.UnpackPack
end

section
/-! SUPPORT. What ten words decode to (spec/48_decode.md rule R232): steps 2 to 12 succeed exactly on
the words of a valid record, and the strict decoder exactly on the barcodes. -/

namespace Sys2Proof.Proofs.WordsDecode

open Sys2Proof Sys2Proof.Machine Sys2Proof.Proofs.MixedRadix Sys2Proof.Proofs.PayloadWords

set_option Elab.async false
open Sys2Proof.Proofs.UnpackRun Sys2Proof.Proofs.UnpackRecord Sys2Proof.Proofs.UnpackPack

set_option Elab.async false
open Sys2Proof.Proofs.Barcode

set_option Elab.async false

/-! ### The frame of the decoder: scratch registers and `REC` (rule R44) -/

/-- Only the scratch registers and `REC` may differ. -/
def ScratchFrame (s t : State) : Prop :=
  t = { s with
    res := t.res, n := t.n, fcs := t.fcs, fcsr := t.fcsr, cw := t.cw, w := t.w, track := t.track
    route := t.route, rpos := t.rpos, record := t.record }

theorem ScratchFrame.refl (s : State) : ScratchFrame s s := rfl

theorem ScratchFrame.trans {s t u : State} (h : ScratchFrame s t) (h' : ScratchFrame t u) :
    ScratchFrame s u := by
  unfold ScratchFrame at *
  rw [h', h]

section
variable {s t : State} (h : ScratchFrame s t)
include h

theorem ScratchFrame.status : t.status = s.status := by rw [h]
theorem ScratchFrame.sym : t.sym = s.sym := by rw [h]
theorem ScratchFrame.len : t.len = s.len := by rw [h]
theorem ScratchFrame.sug : t.sug = s.sug := by rw [h]
theorem ScratchFrame.diff : t.diff = s.diff := by rw [h]
theorem ScratchFrame.repinfo : t.repinfo = s.repinfo := by rw [h]
theorem ScratchFrame.host : t.host = s.host := by rw [h]
theorem ScratchFrame.rdata : t.rdata = s.rdata := by rw [h]
theorem ScratchFrame.fresh : t.fresh = s.fresh := by rw [h]

theorem ScratchFrame.sym65 : sym65 t = sym65 s := by rw [Machine.sym65, Machine.sym65, h.sym]

end

/-! ### Words of a record -/

/-- The ten words of a record's payload with its frame-check sequence. -/
def recordWords (r : Record) : Words := wordsOf (payloadOf r) (recordFcs r)

/-- The ten words are those of some valid record. -/
def IsCode (w : Words) : Prop := ∃ r, validRecord r ∧ w = recordWords r

/-- The record of the value that the codewords of ten words make up. -/
def decoded (w : Words) : Record := unpackedRecord (joinDigits fun i => (unmapped w)[i].toNat)

theorem valid_decoded (w : Words) : validRecord (decoded w) := valid_unpackedRecord _

theorem decoded_recordWords {r : Record} (h : validRecord r) :
    decoded (recordWords r) = unpackedRecord (payloadOf r) := by
  have hdigits : (fun i : Fin 10 => (unmapped (recordWords r))[i].toNat) = splitDigit (payloadOf r) :=
    funext (unmapped_wordsOf _ (Pack.payloadOf_lt_splitBound h))
  rw [decoded, hdigits, joinDigits_splitDigit]

theorem decoded_of_mailer {r : Record} (h : validRecord r) (hm : mailerCondition r) :
    decoded (recordWords r) = tidyRecord r := by
  rw [decoded_recordWords h, unpackedRecord_payloadOf h hm]

theorem recordFcs_congr {r r' : Record} (h : payloadOf r = payloadOf r') :
    recordFcs r = recordFcs r' := by
  rw [recordFcs, recordFcs, payloadLimbs, payloadLimbs, h]

/-- The record that a record's words decode to has these words again. -/
theorem recordWords_decoded {w : Words} (h : IsCode w) : recordWords (decoded w) = w := by
  obtain ⟨r, hr, rfl⟩ := h
  have hpay : payloadOf (decoded (recordWords r)) = payloadOf r := by
    rw [decoded_recordWords hr, payloadOf_unpackedRecord (routing_le_of_valid hr)]
  show wordsOf (payloadOf (decoded (recordWords r))) (recordFcs (decoded (recordWords r))) = _
  rw [hpay, recordFcs_congr hpay]
  rfl

/-! ### Steps 2 to 12 -/

/-- The details of a failure of steps 2 to 12 (rule R232). -/
def wordDetails : List Detail := [.invalidCodeword, .range, .orientation, .fcsMismatch, .padding]

/-- The words of a value pass the unmapping, and the frame-check sequence decides next. -/
theorem not_isCode_of_unmap_raised {s : State} {e : Raise} {t : State}
    (h : cwUnmap s = .raised e t) : ¬ IsCode s.w := by
  rintro ⟨r, hr, hw⟩
  have hok := cwUnmap_wordsOf (recordFcs r) (Pack.payloadOf_lt_splitBound hr) hw
  rw [hok] at h
  cases h

/-- The value and the frame-check sequence of a record's words. -/
theorem value_of_recordWords {v : Nat} {w : Words} (hv : v < splitBound)
    (hw : w = wordsOf v (unmappedFcs w)) {r : Record} (hr : validRecord r) (h : w = recordWords r) :
    v = payloadOf r ∧ unmappedFcs w = recordFcs r := by
  have hlt := Pack.payloadOf_lt_splitBound hr
  refine ⟨wordsOf_injective hv hlt (hw.symm.trans h), ?_⟩
  rw [h, recordWords, unmappedFcs_wordsOf _ hlt]

/-- All that steps 2 to 12 can do: the record of a record's words, or one of five failures. -/
theorem decodeWords_cases (s : State) :
    (IsCode s.w ∧ ∃ t, decodeWords s = .ok t ∧ t.record = decoded s.w ∧ ScratchFrame s t) ∨
    (¬ IsCode s.w ∧ ∃ d ∈ wordDetails, ∃ t, decodeWords s = .raised (.decoding .invalidBarcode d) t ∧
      t.record = s.record ∧ ScratchFrame s t) := by
  rcases cwUnmap_cases s with ⟨-, hrun⟩ | ⟨-, -, hrun⟩ | ⟨-, -, -, -, hrun⟩ | ⟨hvalid, h0, h9, heven, hrun⟩
  · exact .inr ⟨not_isCode_of_unmap_raised hrun, .invalidCodeword, by decide, s,
      by rw [decodeWords, hrun, Run.andThen_raised], rfl, rfl⟩
  · exact .inr ⟨not_isCode_of_unmap_raised hrun, .range, by decide, s,
      by rw [decodeWords, hrun, Run.andThen_raised], rfl, rfl⟩
  · exact .inr ⟨not_isCode_of_unmap_raised hrun, .orientation, by decide, s,
      by rw [decodeWords, hrun, Run.andThen_raised], rfl, rfl⟩
  obtain ⟨v, hv, hw, hdigits⟩ := exists_wordsOf hvalid h0 h9 heven
  obtain ⟨n, hjoin, hn⟩ := setsN_cwJoin_digits
    (s := { s with cw := unmapped s.w, fcsr := unmappedFcs s.w }) hdigits
  have hvalue : (joinDigits fun i => (unmapped s.w)[i].toNat) = v := by
    rw [funext hdigits, joinDigits_splitDigit]
  rcases fcsChk_cases { s with cw := unmapped s.w, fcsr := unmappedFcs s.w, n := n } with
    ⟨hfcs, hchk⟩ | ⟨hfcs, hchk⟩
  · have hrest : decodeWords s = payUnpack { s with
        cw := unmapped s.w, fcsr := unmappedFcs s.w, n := n, fcs := fcsOf n } := by
      rw [decodeWords, hrun, Run.andThen_ok, hjoin, Run.andThen_ok, hchk, Run.andThen_ok]
    by_cases hle : v / (5 * 10 ^ 19) ≤ lastRouting
    · refine .inl ⟨⟨unpackedRecord v, valid_unpackedRecord v, ?_⟩, unpacked { s with
        cw := unmapped s.w, fcsr := unmappedFcs s.w, n := n, fcs := fcsOf n },
        hrest.trans (payUnpack_of_le (by rw [hn]; exact hle)), ?_, rfl⟩
      · have hpay := payloadOf_unpackedRecord hle
        rw [recordWords, hpay, recordFcs_eq (hn.trans hpay.symm)]
        exact hw.trans (congrArg (wordsOf v) hfcs.symm)
      · rw [decoded, hvalue]
        exact congrArg unpackedRecord hn
    · obtain ⟨m, -, hpad⟩ := payUnpack_of_gt (s := { s with
        cw := unmapped s.w, fcsr := unmappedFcs s.w, n := n, fcs := fcsOf n }) (by rw [hn]; omega)
      refine .inr ⟨fun ⟨r, hr, hc⟩ => ?_, .padding, by decide, _, hrest.trans hpad, rfl, rfl⟩
      rw [(value_of_recordWords hv hw hr hc).1] at hle
      exact hle (routing_le_of_valid hr)
  · have hfail : decodeWords s = (Run.raised (.decoding .invalidBarcode .fcsMismatch) { s with
        cw := unmapped s.w, fcsr := unmappedFcs s.w, n := n, fcs := fcsOf n }).andThen payUnpack := by
      rw [decodeWords, hrun, Run.andThen_ok, hjoin, Run.andThen_ok, hchk]
    refine .inr ⟨fun ⟨r, hr, hc⟩ => hfcs ?_, .fcsMismatch, by decide, _, hfail, rfl, rfl⟩
    obtain ⟨hpay, hf⟩ := value_of_recordWords hv hw hr hc
    exact (recordFcs_eq (hn.trans hpay)).symm.trans hf.symm

/-- What the ten words decode to depends on nothing else (rule R258). -/
theorem recordOfWords_of_isCode {w : Words} (h : IsCode w) : recordOfWords w = some (decoded w) := by
  rcases decodeWords_cases { State.reset with w := w } with ⟨-, t, hrun, hrec, -⟩ | ⟨hn, -⟩
  · rw [recordOfWords, tryWords, hrun]
    exact congrArg some hrec
  · exact absurd h hn

theorem recordOfWords_of_not_isCode {w : Words} (h : ¬ IsCode w) : recordOfWords w = none := by
  rcases decodeWords_cases { State.reset with w := w } with ⟨hc, -⟩ | ⟨-, d, -, t, hrun, -⟩
  · exact absurd hc h
  · rw [recordOfWords, tryWords, hrun]

theorem recordOfWords_isSome (w : Words) : (recordOfWords w).isSome = true ↔ IsCode w := by
  by_cases h : IsCode w
  · rw [recordOfWords_of_isCode h]
    exact ⟨fun _ => h, fun _ => rfl⟩
  · rw [recordOfWords_of_not_isCode h]
    exact ⟨fun hc => absurd hc (by decide), fun hc => absurd hc h⟩

/-! ### Barcodes -/

theorem barcodeOf_recordWords {r : Record} (h : validRecord r) :
    barcodeOf layout r = render layout (recordWords r) := barcodeOf_eq layout h

theorem gather_barcodeOf {r : Record} (h : validRecord r) :
    gather layout (barcodeOf layout r) = recordWords r := by
  rw [barcodeOf_recordWords h, Symbols.gather_render Symbols.layout_bijective]

theorem allSyms_barcodeOf {r : Record} (h : validRecord r) : allSyms (barcodeOf layout r) := by
  rw [barcodeOf_recordWords h]
  exact Symbols.allSyms_render _ _

theorem render_gather_of_allSyms {c : Vector Byte 65} (h : allSyms c) :
    render layout (gather layout c) = c :=
  Symbols.render_gather Symbols.layout_bijective ((Symbols.allSyms_iff c).mp h)

/-- A string is a barcode exactly when it is of symbols and its words are a record's. -/
theorem isBarcode_iff (c : Vector Byte 65) : isBarcode c ↔ allSyms c ∧ IsCode (gather layout c) := by
  constructor
  · rintro ⟨r, hr, rfl⟩
    exact ⟨allSyms_barcodeOf hr, r, hr, gather_barcodeOf hr⟩
  · rintro ⟨hsym, r, hr, hw⟩
    refine ⟨r, hr, ?_⟩
    rw [barcodeOf_recordWords hr, ← hw, render_gather_of_allSyms hsym]

/-- The record decoded from a barcode's words has that barcode. -/
theorem barcodeOf_decoded {c : Vector Byte 65} (h : isBarcode c) :
    barcodeOf layout (decoded (gather layout c)) = c := by
  obtain ⟨hsym, hcode⟩ := (isBarcode_iff c).mp h
  rw [barcodeOf_recordWords (valid_decoded _), recordWords_decoded hcode, render_gather_of_allSyms hsym]

/-! ### The strict decoder (rule R233) -/

/-- The state that every decode command starts its work from. -/
def decodeStart (s : State) : State :=
  { s with repinfo := 0, diff := 0, sug := Vector.replicate 65 0, record := .absent }

/-- Why the strict decoder rejects: the length, a byte, or the words (rules R231, R232). -/
def StrictRaise (s : State) (e : Raise) : Prop :=
  (s.len ≠ 65 ∧ e = .decoding .length .none) ∨
  (s.len = 65 ∧ ¬ allSyms (sym65 s) ∧ e = .decoding .invalidSymbol .none) ∨
  (s.len = 65 ∧ allSyms (sym65 s) ∧ ∃ d ∈ wordDetails, e = .decoding .invalidBarcode d)

/-- `SYM.PARSE` in the statements' terms. -/
theorem symParse_split (s : State) :
    (s.len = 65 ∧ allSyms (sym65 s) ∧
      symParse layout s = .ok { s with w := gather layout (sym65 s) }) ∨
    (s.len ≠ 65 ∧ symParse layout s = .raised (.decoding .length .none) s) ∨
    (s.len = 65 ∧ ¬ allSyms (sym65 s) ∧
      symParse layout s = .raised (.decoding .invalidSymbol .none) s) := by
  rcases symParse_cases layout s with ⟨hlen, hsym, hrun⟩ | h | ⟨hlen, hsym, hrun⟩
  · exact .inl ⟨hlen, (Symbols.allSymbols_iff_allSyms s).mp hsym, hrun⟩
  · exact .inr (.inl h)
  · refine .inr (.inr ⟨hlen, fun hc => ?_, hrun⟩)
    rw [(Symbols.allSymbols_iff_allSyms s).mpr hc] at hsym
    cases hsym

/-- All that `DEC.STRICT` can do. -/
theorem decStrict_cases (s : State) :
    (s.len = 65 ∧ isBarcode (sym65 s) ∧ ∃ t, decStrict layout s = .ok t ∧
      t.record = decoded (gather layout (sym65 s)) ∧ ScratchFrame (decodeStart s) t) ∨
    (¬ (s.len = 65 ∧ isBarcode (sym65 s)) ∧ ∃ e t, StrictRaise s e ∧
      decStrict layout s = .raised e t ∧ t.record = .absent ∧ ScratchFrame (decodeStart s) t) := by
  have hstart : decStrict layout s = (symParse layout (decodeStart s)).andThen decodeWords := rfl
  rcases symParse_split (decodeStart s) with ⟨hlen, hsym, hrun⟩ | ⟨hlen, hrun⟩ | ⟨hlen, hsym, hrun⟩
  · rw [hstart, hrun, Run.andThen_ok]
    rcases decodeWords_cases { decodeStart s with w := gather layout (sym65 (decodeStart s)) } with
      ⟨hcode, t, ht, hrec, hframe⟩ | ⟨hcode, d, hd, t, ht, hrec, hframe⟩
    · exact .inl ⟨hlen, (isBarcode_iff _).mpr ⟨hsym, hcode⟩, t, ht, hrec,
        ScratchFrame.trans (t := { decodeStart s with w := gather layout (sym65 (decodeStart s)) })
          rfl hframe⟩
    · exact .inr ⟨fun hc => hcode ((isBarcode_iff _).mp hc.2).2, _, t,
        .inr (.inr ⟨hlen, hsym, d, hd, rfl⟩), ht, hrec,
        ScratchFrame.trans (t := { decodeStart s with w := gather layout (sym65 (decodeStart s)) })
          rfl hframe⟩
  · exact .inr ⟨fun hc => hlen hc.1, _, decodeStart s, .inl ⟨hlen, rfl⟩,
      by rw [hstart, hrun, Run.andThen_raised], rfl, rfl⟩
  · exact .inr ⟨fun hc => hsym ((isBarcode_iff _).mp hc.2).1, _, decodeStart s,
      .inr (.inl ⟨hlen, hsym, rfl⟩), by rw [hstart, hrun, Run.andThen_raised], rfl, rfl⟩

end Sys2Proof.Proofs.WordsDecode
end

section
/-! SUPPORT. `DEC.STRICT` as a command (spec/48_decode.md rules R233 to R235): against its five
commands one after the other, and on a barcode. -/

namespace Sys2Proof.Proofs.StrictDecoder

open Sys2Proof Sys2Proof.Machine Sys2Proof.Proofs.WordsDecode

set_option Elab.async false

/-! ### Commands one after the other -/

/-- Pseudocode that leaves `STATUS` alone and raises nothing but decoding errors. -/
def EndsByDecoding (f : State → Run) : Prop :=
  ∀ s, ∃ t, t.status = s.status ∧ (f s = .ok t ∨ ∃ r d, f s = .raised (.decoding r d) t)

theorem succeeded_of_zero {t : State} (h : t.status = .zero) : succeeded t = true := by
  rw [succeeded, h]
  rfl

theorem takeRaise_decoding_of_zero {t : State} (r : DecReason) (d : Detail) (h : t.status = .zero) :
    (takeRaise (.decoding r d) t).status = decodingStatus r.code d.code := by
  rw [takeRaise_decoding_status, h]
  rfl

theorem not_succeeded_of_decoding {t : State} {r d : BitVec 4} (h : t.status = decodingStatus r d) :
    succeeded t = false := by
  rw [succeeded, h]
  rfl

/-- A command and the rest of its program: the rest runs exactly when the command succeeded. -/
theorem command_chain {f : State → Run} (hf : EndsByDecoding f) (g : State → Run) {s : State}
    (h0 : s.status.fault = 0) :
    ∃ a, command f s = .next a ∧ a.status.fault = 0 ∧
      (succeeded a = false → command (fun u => (f u).andThen g) s = .next a) ∧
      (succeeded a = true → command (fun u => (f u).andThen g) s = command g a) := by
  obtain ⟨t, hst, hok | ⟨r, d, hraised⟩⟩ := hf { s with status := .zero }
  · have hzero : t.status = .zero := hst
    refine ⟨t, command_ok h0 hok, by rw [hzero]; rfl, fun hc => ?_, fun _ =>
      Encoder.command_andThen h0 (command_ok h0 hok) hzero⟩
    rw [succeeded_of_zero hzero] at hc
    cases hc
  · have hstatus := takeRaise_decoding_of_zero r d hst
    refine ⟨_, command_raised h0 hraised, by rw [hstatus]; rfl, fun _ =>
      command_raised h0 (by rw [hraised, Run.andThen_raised]), fun hc => ?_⟩
    rw [not_succeeded_of_decoding hstatus] at hc
    cases hc

theorem symParse_endsByDecoding (L : Layout) : EndsByDecoding (symParse L) := fun s => by
  rcases symParse_cases L s with ⟨-, -, h⟩ | ⟨-, h⟩ | ⟨-, -, h⟩
  · exact ⟨{ s with w := gather L (sym65 s) }, rfl, .inl h⟩
  · exact ⟨s, rfl, .inr ⟨_, _, h⟩⟩
  · exact ⟨s, rfl, .inr ⟨_, _, h⟩⟩

theorem cwUnmap_endsByDecoding : EndsByDecoding cwUnmap := fun s => by
  rcases cwUnmap_cases s with ⟨-, h⟩ | ⟨-, -, h⟩ | ⟨-, -, -, -, h⟩ | ⟨-, -, -, -, h⟩
  · exact ⟨s, rfl, .inr ⟨_, _, h⟩⟩
  · exact ⟨s, rfl, .inr ⟨_, _, h⟩⟩
  · exact ⟨s, rfl, .inr ⟨_, _, h⟩⟩
  · exact ⟨{ s with cw := unmapped s.w, fcsr := unmappedFcs s.w }, rfl, .inl h⟩

theorem cwJoin_endsByDecoding : EndsByDecoding cwJoin := fun s => by
  obtain ⟨⟨n, h, -⟩, -⟩ := Chain.setsN_cwJoin s
  exact ⟨{ s with n := n }, rfl, .inl h⟩

theorem fcsChk_endsByDecoding : EndsByDecoding fcsChk := fun s => by
  rcases fcsChk_cases s with ⟨-, h⟩ | ⟨-, h⟩
  · exact ⟨{ s with fcs := fcsOf s.n }, rfl, .inl h⟩
  · exact ⟨{ s with fcs := fcsOf s.n }, rfl, .inr ⟨_, _, h⟩⟩

theorem exec_cwJoin_succeeds {s : State} (h : s.status.fault = 0) {t : State}
    (ht : exec .cwJoin s = .next t) : succeeded t = true := by
  obtain ⟨⟨n, hrun, -⟩, -⟩ := Chain.setsN_cwJoin { s with status := .zero }
  have hok : exec .cwJoin s = .next { s with status := .zero, n := n } :=
    command_ok (body := cwJoin) h hrun
  cases hok.symm.trans ht
  rfl

/-- `DEC.STRICT` is its five commands' program, from the cleared registers. -/
theorem exec_decStrict_eq {s : State} (h : s.status.fault = 0) :
    exec .decStrict s =
      command (fun u => (symParse layout u).andThen decodeWords) (decodeStart s) := by
  have hstart : (decodeStart s).status.fault = 0 := h
  show command (decStrict layout) s = _
  rw [command_of_fault_zero _ _ h, command_of_fault_zero _ _ hstart]
  rfl

/-! ### The command -/

theorem strictRaise_decoding {s : State} {e : Raise} (h : StrictRaise s e) :
    ∃ r d, e = .decoding r d := by
  rcases h with ⟨-, he⟩ | ⟨-, -, he⟩ | ⟨-, -, d, -, he⟩ <;> exact ⟨_, _, he⟩

/-- The state that `DEC.STRICT` ends in, on success and on failure. -/
theorem exec_decStrict_cases {s : State} (hf : s.status.fault = 0) :
    (s.len = 65 ∧ isBarcode (sym65 s) ∧ ∃ t, decStrict layout { s with status := .zero } = .ok t ∧
      exec .decStrict s = .next t ∧ t.status = .zero ∧
      t.record = decoded (gather layout (sym65 s)) ∧
      ScratchFrame (decodeStart { s with status := .zero }) t) ∨
    (¬ (s.len = 65 ∧ isBarcode (sym65 s)) ∧ ∃ r d u, StrictRaise s (.decoding r d) ∧
      exec .decStrict s = .next (takeRaise (.decoding r d) u) ∧
      (takeRaise (.decoding r d) u).status = decodingStatus r.code d.code ∧ u.record = .absent ∧
      ScratchFrame (decodeStart { s with status := .zero }) u) := by
  rcases decStrict_cases { s with status := .zero } with
    ⟨hlen, hbar, t, hrun, hrec, hframe⟩ | ⟨hnot, e, u, hraise, hrun, hrec, hframe⟩
  · exact .inl ⟨hlen, hbar, t, hrun, command_ok (body := decStrict layout) hf hrun, hframe.status, hrec,
      hframe⟩
  · obtain ⟨r, d, rfl⟩ := strictRaise_decoding hraise
    exact .inr ⟨hnot, r, d, u, hraise, command_raised (body := decStrict layout) hf hrun,
      takeRaise_decoding_of_zero r d hframe.status, hrec, hframe⟩

/-- The chain of the five commands, and where `DEC.STRICT` ends along it (rule R233). -/
theorem decStrict_is_its_commands {s t : State} (hf : s.status.fault = 0)
    (ht : exec .decStrict s = .next t) :
    ∃ a b c d e, exec .symParse (decodeStart s) = .next a ∧ exec .cwUnmap a = .next b ∧
      exec .cwJoin b = .next c ∧ exec .fcsChk c = .next d ∧ exec .payUnpack d = .next e ∧
      succeeded c = true ∧ (succeeded a = false → t = a) ∧
      (succeeded a = true → succeeded b = false → t = b) ∧
      (succeeded a = true → succeeded b = true → succeeded d = false → t = d) ∧
      (succeeded a = true → succeeded b = true → succeeded d = true → t = e) := by
  obtain ⟨a, ha, ha0, hafail, haok⟩ :=
    command_chain (symParse_endsByDecoding layout) decodeWords (s := decodeStart s) hf
  obtain ⟨b, hb, hb0, hbfail, hbok⟩ := command_chain cwUnmap_endsByDecoding
    (fun u => (cwJoin u).andThen fun u => (fcsChk u).andThen payUnpack) ha0
  obtain ⟨c, hc, hc0, -, hcok⟩ := command_chain cwJoin_endsByDecoding
    (fun u => (fcsChk u).andThen payUnpack) hb0
  obtain ⟨d, hd, -, hdfail, hdok⟩ := command_chain fcsChk_endsByDecoding payUnpack hc0
  obtain ⟨e, he⟩ := Port.exec_next .payUnpack d
  have hcs : succeeded c = true := exec_cwJoin_succeeds hb0 hc
  have hrun := (exec_decStrict_eq hf).symm.trans ht
  refine ⟨a, b, c, d, e, ha, hb, hc, hd, he, hcs, fun h => ?_, fun h h' => ?_, fun h h' h'' => ?_,
    fun h h' h'' => ?_⟩
  · cases (hafail h).symm.trans hrun
    rfl
  · cases ((haok h).trans (hbfail h')).symm.trans hrun
    rfl
  · cases ((haok h).trans ((hbok h').trans ((hcok hcs).trans (hdfail h'')))).symm.trans hrun
    rfl
  · cases ((haok h).trans ((hbok h').trans ((hcok hcs).trans ((hdok h'').trans he)))).symm.trans hrun
    rfl

/-- Settles O49. -/
theorem strictDecoderAcceptsExactlyBarcodes : Obligations.StrictDecoderAcceptsExactlyBarcodes := by
  refine ⟨by decide, fun s hf => ?_⟩
  rcases exec_decStrict_cases hf with
    ⟨hlen, hbar, t, -, hexec, hstatus, hrec, hframe⟩ | ⟨hnot, r, d, u, -, hexec, hstatus, hrec, hframe⟩
  · have hok := succeeded_of_zero hstatus
    refine ⟨t, hexec, hframe.sym, hframe.len, hframe.repinfo, hframe.sug, hframe.diff,
      ⟨fun _ => ⟨hlen, hbar⟩, fun _ => hok⟩, fun _ => ?_, fun hc => ?_,
      decStrict_is_its_commands hf hexec⟩
    · rw [hrec]
      exact ⟨valid_decoded _, (barcodeOf_decoded hbar).symm⟩
    · rw [hok] at hc
      cases hc
  · have hfail := not_succeeded_of_decoding hstatus
    refine ⟨_, hexec, hframe.sym, hframe.len, hframe.repinfo, hframe.sug, hframe.diff,
      ⟨fun hc => ?_, fun hc => absurd hc hnot⟩, fun hc => ?_, fun _ => hrec,
      decStrict_is_its_commands hf hexec⟩
    · rw [hfail] at hc
      cases hc
    · rw [hfail] at hc
      cases hc

/-! ### A barcode -/

/-- The barcode of a record that meets the mailer condition decodes to that record. -/
theorem decoded_of_barcode {r : Record} (h : validRecord r) (hm : mailerCondition r)
    {c : Vector Byte 65} (hc : c = barcodeOf layout r) :
    isBarcode c ∧ decoded (gather layout c) = tidyRecord r := by
  refine ⟨⟨r, h, hc⟩, ?_⟩
  rw [hc, gather_barcodeOf h, decoded_of_mailer h hm]

/-- `DECODE` by its tests and phases, from the cleared registers (rule R268). -/
theorem decodeRun_eq (L : Layout) (s : State) : decodeRun L s =
    if s.len ≠ 64 ∧ s.len ≠ 65 ∧ s.len ≠ 66 then .raised (.decoding .length .none) (decodeStart s)
    else if allSymbols s.len.toNat (decodeStart s) = false then
      .raised (.decoding .invalidSymbol .none) (decodeStart s)
    else if s.len = 65 then
      (decStrict L (decodeStart s)).tryThen .ok fun _ s => decodeRepair L true s
    else
      (repLen L (decodeStart s)).tryThen (decodeRepair L false) fun _ s =>
        .raised (.decoding .length .lenRepairFailed) s := rfl

/-- `DECODE` of a string that the strict decoder takes. -/
theorem decodeRun_of_strict {s t : State} (hlen : s.len = 65) (hsym : allSyms (sym65 s))
    (hrun : decStrict layout s = .ok t) : decodeRun layout s = .ok t := by
  have hall : allSymbols s.len.toNat (decodeStart s) = true := by
    rw [hlen]
    exact (Symbols.allSymbols_iff_allSyms _).mpr hsym
  rw [decodeRun_eq, if_neg fun hc => hc.2.1 hlen]
  rw [if_neg (by rw [hall]; decide), if_pos hlen]
  exact congrArg (fun run => Run.tryThen run .ok fun _ s => decodeRepair layout true s) hrun

/-- `DECODE` ends where `DEC.STRICT` does when that succeeds (rule R268). -/
theorem exec_decodeSym_of_strict {s t : State} (hf : s.status.fault = 0) (hlen : s.len = 65)
    (hsym : allSyms (sym65 s)) (hrun : decStrict layout { s with status := .zero } = .ok t)
    (hstatus : t.status = .zero) : exec .decodeSym s = .next t := by
  refine command_ok (body := fun s => decodeScratch (decodeRun layout s)) hf ?_
  show decodeScratch (decodeRun layout { s with status := .zero }) = _
  rw [decodeRun_of_strict (s := { s with status := .zero }) hlen hsym hrun, decodeScratch, hstatus]
  rfl

/-- Settles O48. -/
theorem decodeOfBarcodeIsTheRecord : Obligations.DecodeOfBarcodeIsTheRecord := by
  intro s r hf hlen hvalid hm hsym
  obtain ⟨hbar, hdecoded⟩ := decoded_of_barcode hvalid hm hsym
  rcases exec_decStrict_cases hf with
    ⟨-, -, t, hrun, hexec, hstatus, hrec, hframe⟩ | ⟨hnot, -⟩
  · exact ⟨t, hexec, exec_decodeSym_of_strict hf hlen ((isBarcode_iff _).mp hbar).1 hrun hstatus, hstatus,
      hrec.trans hdecoded, hframe.sug, hframe.diff, hframe.repinfo, hframe.sym, hframe.len, hframe.host,
      hframe.rdata, hframe.fresh⟩
  · exact absurd ⟨hlen, hbar⟩ hnot

end Sys2Proof.Proofs.StrictDecoder
end

section
/-! SUPPORT. `REP.LEN` (spec/49_recovery.md rules R251 to R255): the candidates of the length repair and
the scan that keeps the first of the best. -/

namespace Sys2Proof.Proofs.LengthRepair

open Sys2Proof Sys2Proof.Machine

set_option Elab.async false

/-! ### The candidates (rule R252) -/

theorem symbols_length {s : State} (h : s.len.toNat ≤ 66) : (symbols s).length = s.len.toNat := by
  rw [symbols, List.length_take, Vector.length_toList]
  omega

theorem symbols_getElem? {s : State} {k : Nat} (hk : k < s.len.toNat) :
    (symbols s)[k]? = s.sym.toList[k]? := by
  rw [symbols, List.getElem?_take, if_pos hk]

/-- Symbol `p` of an insertion. -/
theorem insert_getElem? (l : List Byte) {j p : Nat} (hj : j ≤ l.length) :
    (l.take j ++ symT :: l.drop j)[p]? =
      if p < j then l[p]? else if p = j then some symT else l[p - 1]? := by
  have hlen : (l.take j).length = j := by rw [List.length_take]; omega
  by_cases hlt : p < j
  · rw [if_pos hlt, List.getElem?_append_left (by omega), List.getElem?_take, if_pos hlt]
  rw [if_neg hlt, List.getElem?_append_right (by omega), hlen]
  by_cases heq : p = j
  · rw [if_pos heq, heq, Nat.sub_self, List.getElem?_cons_zero]
  · obtain ⟨q, rfl⟩ : ∃ q, p = j + q + 1 := ⟨p - j - 1, by omega⟩
    have hq : j + q + 1 - j = q + 1 := by omega
    rw [if_neg heq, hq, List.getElem?_cons_succ, List.getElem?_drop, Nat.add_sub_cancel]

theorem candidateCount_eq {s : State} (hlen : s.len = 64 ∨ s.len = 66) :
    candidateCount s = if (symbols s).length = 64 then 65 else 66 := by
  rcases hlen with h | h
  · rw [candidateCount, if_pos h, symbols_length (by rw [h]; decide), h]
    rfl
  · rw [candidateCount, symbols_length (by rw [h]; decide), h]
    rfl

/-- The candidates of the pseudocode are those of the statement. -/
theorem candidate_eq {s : State} (hlen : s.len = 64 ∨ s.len = 66) {j : Nat}
    (hj : j < candidateCount s) :
    candidate (symbols s) j = Vector.ofFn fun p => candidateSymbol s j p.val := by
  refine Vector.ext fun p hp => ?_
  rw [Vector.getElem_ofFn, candidate, candidateSymbol]
  rcases hlen with h | h
  · have hlen : s.len.toNat = 64 := by rw [h]; rfl
    have hsym : (symbols s).length = 64 := by rw [symbols_length (by omega), hlen]
    rw [candidateCount, if_pos h] at hj
    rw [if_pos hsym, if_pos h, string65, Vector.getElem_ofFn]
    simp only [List.getD_eq_getElem?_getD]
    rw [insert_getElem? _ (by omega)]
    by_cases hlt : p < j
    · rw [if_pos hlt, if_pos hlt, symbols_getElem? (by omega)]
    · rw [if_neg hlt, if_neg hlt]
      by_cases heq : p = j
      · rw [if_pos heq, if_pos heq]
        rfl
      · rw [if_neg heq, if_neg heq, symbols_getElem? (by omega)]
  · have hlen : s.len.toNat = 66 := by rw [h]; rfl
    have hsym : (symbols s).length = 66 := by rw [symbols_length (by omega), hlen]
    have hne : ¬ s.len = 64 := by rw [h]; decide
    rw [if_neg (by omega), if_neg hne, string65, Vector.getElem_ofFn]
    simp only [List.getD_eq_getElem?_getD, List.getElem?_eraseIdx]
    by_cases hlt : p < j
    · rw [if_pos hlt, if_pos hlt, symbols_getElem? (by omega)]
    · rw [if_neg hlt, if_neg hlt, symbols_getElem? (by omega)]

theorem candidateBad_eq {s : State} (hlen : s.len = 64 ∨ s.len = 66) {j : Nat}
    (hj : j < candidateCount s) : candidateBad s j = bad layout (candidate (symbols s) j) := by
  rw [candidateBad, candidate_eq hlen hj]

/-! ### The scan (rule R255) -/

theorem bad_le_ten (L : Layout) (c : Vector Byte 65) : bad L c ≤ 10 := by
  refine (List.length_filter_le _ _).trans ?_
  rw [Vector.length_toList]

/-- What the scan holds after the candidates below `n`: the first of those with the fewest invalid
words. -/
def BestBelow (cost : Nat → Nat) (n : Nat) (best : Nat × Nat) : Prop :=
  best.2 < n ∧ best.1 = cost best.2 ∧ (∀ k < n, best.1 ≤ cost k) ∧ ∀ k < best.2, best.1 < cost k

theorem scan_bestBelow (L : Layout) (c : List Byte) (n : Nat) :
    BestBelow (fun j => bad L (candidate c j)) (n + 1)
      ((List.range (n + 1)).foldl (keepBetter L c) (11, 0)) := by
  induction n with
  | zero =>
    have hfirst : keepBetter L c (11, 0) 0 = (bad L (candidate c 0), 0) :=
      if_pos ((bad_le_ten L _).trans_lt (by decide))
    rw [List.range_one, List.foldl_cons, List.foldl_nil, hfirst]
    refine ⟨Nat.one_pos, rfl, fun k hk => ?_, fun k hk => absurd hk (Nat.not_lt_zero k)⟩
    obtain rfl : k = 0 := by omega
    exact le_rfl
  | succ n ih =>
    rw [List.range_succ, List.foldl_append, List.foldl_cons, List.foldl_nil]
    generalize (List.range (n + 1)).foldl (keepBetter L c) (11, 0) = best at ih ⊢
    obtain ⟨hlt, hcost, hmin, hfirst⟩ := ih
    by_cases h : bad L (candidate c (n + 1)) < best.1
    · have hstep : keepBetter L c best (n + 1) = (bad L (candidate c (n + 1)), n + 1) := if_pos h
      rw [hstep]
      refine ⟨Nat.lt_succ_self _, rfl, fun k hk => ?_, fun k hk => lt_of_lt_of_le h (hmin k hk)⟩
      rcases Nat.lt_succ_iff_lt_or_eq.mp hk with hk | rfl
      · exact le_trans (le_of_lt h) (hmin k hk)
      · exact le_rfl
    · have hstep : keepBetter L c best (n + 1) = best := if_neg h
      rw [hstep]
      refine ⟨Nat.lt_succ_of_lt hlt, hcost, fun k hk => ?_, hfirst⟩
      rcases Nat.lt_succ_iff_lt_or_eq.mp hk with hk | rfl
      · exact hmin k hk
      · exact Nat.le_of_not_lt h

theorem bestCandidate_bestBelow {s : State} (hlen : s.len = 64 ∨ s.len = 66) :
    BestBelow (candidateBad s) (candidateCount s) (bestCandidate layout (symbols s)) := by
  have hscan : BestBelow (fun j => bad layout (candidate (symbols s) j)) (candidateCount s)
      (bestCandidate layout (symbols s)) := by
    rw [bestCandidate, ← candidateCount_eq hlen]
    have hpos : candidateCount s = (candidateCount s - 1) + 1 := by
      rw [candidateCount]
      split <;> rfl
    rw [hpos]
    exact scan_bestBelow layout (symbols s) (candidateCount s - 1)
  obtain ⟨hlt, hcost, hmin, hfirst⟩ := hscan
  refine ⟨hlt, ?_, fun k hk => ?_, fun k hk => ?_⟩
  · rw [candidateBad_eq hlen hlt]
    exact hcost
  · rw [candidateBad_eq hlen hk]
    exact hmin k hk
  · rw [candidateBad_eq hlen (hk.trans hlt)]
    exact hfirst k hk

/-! ### `REPINFO` (rule R37) -/

theorem repinfo_insertion : ∀ j < 66, ((1 : BitVec 9) <<< 7) ||| BitVec.ofNat 9 j = BitVec.ofNat 9 (128 + j) := by
  decide

theorem repinfo_deletion : ∀ j < 66, ((2 : BitVec 9) <<< 7) ||| BitVec.ofNat 9 j = BitVec.ofNat 9 (256 + j) := by
  decide

/-- `REPINFO` after a repair with candidate `j`. -/
theorem repinfo_eq {s : State} (hlen : s.len = 64 ∨ s.len = 66) {j : Nat} (hj : j < candidateCount s) :
    (repairMode (symbols s).length <<< 7) ||| BitVec.ofNat 9 j =
      BitVec.ofNat 9 ((if s.len = 64 then 128 else 256) + j) := by
  rw [candidateCount] at hj
  rcases hlen with h | h
  · have hsym : (symbols s).length = 64 := by rw [symbols_length (by rw [h]; decide), h]; rfl
    rw [if_pos h, repairMode, if_pos hsym]
    rw [if_pos h] at hj
    exact repinfo_insertion j (by omega)
  · have hsym : (symbols s).length = 66 := by rw [symbols_length (by rw [h]; decide), h]; rfl
    have hne : ¬ s.len = 64 := by rw [h]; decide
    rw [if_neg hne, repairMode, if_neg (by omega)]
    rw [if_neg hne] at hj
    exact repinfo_deletion j hj

/-! ### The run and the command -/

/-- The cleared registers that length repair starts from. -/
def lenStart (s : State) : State :=
  { s with repinfo := 0, diff := 0, sug := Vector.replicate 65 0 }

/-- The state after a repair with a count `b` of invalid words and candidate `j`. -/
def lenRepaired (s : State) (b j : Nat) : State :=
  { lenStart s with
    res := BitVec.ofNat 32 b, sym := bufferOf (candidate (symbols s) j), len := 65
    repinfo := BitVec.ofNat 9 ((if s.len = 64 then 128 else 256) + j) }

/-- `REP.LEN` on an input that it scans. -/
theorem repLen_scan {s : State} (hlen : s.len = 64 ∨ s.len = 66) (hsym : inputSymbols s) {b j : Nat}
    (hbest : bestCandidate layout (symbols s) = (b, j)) :
    (5 ≤ b ∧ repLen layout s = .raised (.decoding .invalidBarcode .lenRepairFailed)
        { lenStart s with res := BitVec.ofNat 32 b }) ∨
      (b < 5 ∧ repLen layout s = .ok (lenRepaired s b j)) := by
  have hlt := (bestCandidate_bestBelow hlen).1
  have hall := (Symbols.allSymbols_iff_inputSymbols s).mpr hsym
  rcases repLen_cases layout s with ⟨h64, h66, -⟩ | ⟨-, hno, -⟩ | ⟨-, -, h5, hrun⟩ | ⟨-, -, h5, hrun⟩
  · exact absurd hlen (not_or.mpr ⟨h64, h66⟩)
  · rw [hall] at hno
    cases hno
  · rw [hbest] at h5 hrun
    exact .inl ⟨h5, hrun⟩
  · rw [hbest] at h5 hlt
    refine .inr ⟨h5, ?_⟩
    rw [hrun, hbest, repinfo_eq hlen hlt]
    rfl

/-- The command, from its run. -/
theorem exec_repLen_eq {s : State} (hf : s.status.fault = 0) :
    exec .repLen s = .next (finish ((repLen layout { s with status := .zero }).mapState
      (if lenRepairScans { s with status := .zero } then loseScratchButRes else loseScratch))) :=
  command_of_fault_zero
    (fun s => (repLen layout s).mapState (if lenRepairScans s then loseScratchButRes else loseScratch))
    s hf

theorem lenRepairScans_of_input {s : State} (hlen : s.len = 64 ∨ s.len = 66) (hsym : inputSymbols s) :
    lenRepairScans s = true := by
  rw [lenRepairScans, (Symbols.allSymbols_iff_inputSymbols s).mpr hsym]
  rcases hlen with h | h <;> rw [h] <;> rfl

/-- `REP.LEN` as a command on an input that it scans. -/
theorem exec_repLen_scan {s : State} (hf : s.status.fault = 0) (hlen : s.len = 64 ∨ s.len = 66)
    (hsym : inputSymbols s) {b j : Nat} (hbest : bestCandidate layout (symbols s) = (b, j)) :
    (5 ≤ b ∧ exec .repLen s = .next (takeRaise (.decoding .invalidBarcode .lenRepairFailed)
        (loseScratchButRes { lenStart { s with status := .zero } with res := BitVec.ofNat 32 b }))) ∨
      (b < 5 ∧ exec .repLen s =
        .next (loseScratchButRes (lenRepaired { s with status := .zero } b j))) := by
  have hscan := lenRepairScans_of_input (s := { s with status := .zero }) hlen hsym
  refine (repLen_scan (s := { s with status := .zero }) hlen hsym hbest).imp
    (fun ⟨h5, hrun⟩ => ⟨h5, ?_⟩) fun ⟨h5, hrun⟩ => ⟨h5, ?_⟩
  · rw [exec_repLen_eq hf, hrun, hscan]
    rfl
  · rw [exec_repLen_eq hf, hrun, hscan]
    rfl

/-- Settles O50. -/
theorem lengthRepairKeepsTheFirstBest : Obligations.LengthRepairKeepsTheFirstBest := by
  refine ⟨by decide, fun s hf hlen hsym => ?_⟩
  obtain ⟨b, j, hbest⟩ : ∃ b j, bestCandidate layout (symbols s) = (b, j) := ⟨_, _, rfl⟩
  have hexec := exec_repLen_scan hf hlen hsym hbest
  obtain ⟨hlt, hb, hmin, hfirst⟩ := bestCandidate_bestBelow hlen
  rw [hbest] at hlt hb hmin hfirst
  have hb' : b = candidateBad s j := hb
  have hlt' : j < candidateCount s := hlt
  have hres : (BitVec.ofNat 32 b).toNat = candidateBad s j := by
    have hle : b ≤ 10 := by
      rw [hb', candidateBad]
      exact bad_le_ten _ _
    rw [BitVec.toNat_ofNat, ← hb']
    exact Nat.mod_eq_of_lt (by omega)
  rw [hb'] at hmin hfirst
  rcases hexec with ⟨h5, hexec⟩ | ⟨h5, hexec⟩
  · refine ⟨_, j, hexec, hlt', hmin, hfirst, hres, rfl, rfl, rfl, rfl, rfl, fun hc => ?_,
      fun _ => ⟨rfl, rfl, rfl, rfl⟩⟩
    omega
  · refine ⟨_, j, hexec, hlt', hmin, hfirst, hres, rfl, rfl, rfl, rfl, rfl,
      fun _ => ⟨rfl, rfl, bufferOf_last _, fun p => ?_, rfl⟩, fun hc => ?_⟩
    · have hcand := candidate_eq (s := { s with status := .zero }) hlen hlt'
      refine (bufferOf_getElem _ p.val p.isLt).trans ?_
      rw [hcand, Vector.getElem_ofFn]
      rfl
    · omega

end Sys2Proof.Proofs.LengthRepair
end

section
/-! SUPPORT. The lists and tuples of the bit-flip repair (spec/49_recovery.md rules R256, R257, R259,
R260). -/

namespace Sys2Proof.Proofs.FlipTuples

open Sys2Proof Sys2Proof.Machine Sys2Proof.Proofs.WordsDecode

set_option Elab.async false

/-! ### Sections of a list of lists -/

theorem sections_cons {α : Type} (l : List α) (ls : List (List α)) :
    (l :: ls).sections = ls.sections.flatMap fun t => l.map fun a => a :: t := rfl

theorem length_sections {α : Type} (ls : List (List α)) :
    ls.sections.length = (ls.map List.length).prod := by
  induction ls with
  | nil => rfl
  | cons l ls ih =>
    rw [sections_cons, List.map_cons, List.prod_cons, ← ih, List.length_flatMap]
    simp only [List.length_map, List.map_const', List.sum_replicate, smul_eq_mul, Nat.mul_comm]

theorem nodup_sections {α : Type} (ls : List (List α)) (h : ∀ l ∈ ls, l.Nodup) :
    ls.sections.Nodup := by
  induction ls with
  | nil => exact List.nodup_singleton _
  | cons l ls ih =>
    obtain ⟨hl, hls⟩ := List.forall_mem_cons.mp h
    rw [sections_cons, List.nodup_flatMap]
    refine ⟨fun t _ => hl.map fun a b hab => List.head_eq_of_cons_eq hab, (ih hls).imp fun hne => ?_⟩
    rintro _ ha hb
    obtain ⟨_, -, rfl⟩ := List.mem_map.mp ha
    obtain ⟨_, -, hcons⟩ := List.mem_map.mp hb
    exact hne (List.tail_eq_of_cons_eq hcons).symm

/-! ### The plausible words of one word (rule R256) -/

theorem mem_plausible (w x : Char13) :
    x ∈ plausible w ↔ if (romDec w).isSome then x = w
      else (romDec x).isSome ∧ ∃ b : Fin 13, x = w ^^^ BitVec.twoPow 13 b := by
  unfold plausible
  split
  · exact List.mem_singleton
  · rw [List.mem_filter, List.mem_map, and_comm]
    refine and_congr_right fun _ => ⟨fun ⟨b, hb, hx⟩ => ?_, fun ⟨b, hx⟩ => ?_⟩
    · exact ⟨⟨b, List.mem_range.mp hb⟩, hx.symm⟩
    · exact ⟨b, List.mem_range.mpr b.isLt, hx.symm⟩

theorem plausible_of_valid {w : Char13} (h : (romDec w).isSome = true) : plausible w = [w] := if_pos h

theorem plausible_nodup (w : Char13) : (plausible w).Nodup := by
  have hinj : ∀ b < 13, ∀ c < 13, BitVec.twoPow 13 b = BitVec.twoPow 13 c → b = c := by decide
  have hcancel : ∀ y : Char13, w ^^^ (w ^^^ y) = y := fun y => by
    rw [← BitVec.xor_assoc, BitVec.xor_self, BitVec.zero_xor]
  unfold plausible
  split
  · exact List.nodup_singleton _
  · refine List.Nodup.filter _ (List.Nodup.map_on (fun b hb c hc h => ?_) List.nodup_range)
    refine hinj b (List.mem_range.mp hb) c (List.mem_range.mp hc) ?_
    rw [← hcancel (BitVec.twoPow 13 b), h, hcancel]

/-! ### The tuples (rule R259) -/

theorem mem_tuples (ws x : Words) :
    x ∈ tuples (plausibles ws) ↔ ∀ i : Fin 10, x[i] ∈ plausible ws[i] := by
  have hsection : ∀ t : List Char13, t ∈ (plausibles ws).sections ↔
      t.length = 10 ∧ ∀ i (hi : i < t.length) (hi' : i < 10), t[i] ∈ plausible ws[i] := fun t => by
    have hlen : ws.toList.length = 10 := Vector.length_toList
    rw [List.mem_sections, plausibles, List.forall₂_map_right_iff, List.forall₂_iff_get]
    constructor
    · exact fun ⟨ht, h⟩ => ⟨ht.trans hlen, fun i hi hi' => h i hi (by omega)⟩
    · exact fun ⟨ht, h⟩ => ⟨ht.trans hlen.symm, fun i hi hi' => h i hi (by omega)⟩
  rw [tuples, List.mem_map]
  constructor
  · rintro ⟨t, ht, rfl⟩ ⟨i, hi⟩
    obtain ⟨hlen, hmem⟩ := (hsection t).mp ht
    simp only [Fin.getElem_fin, Vector.getElem_ofFn]
    rw [List.getD_eq_getElem _ _ (by omega)]
    exact hmem i (by omega) hi
  · intro h
    refine ⟨x.toList, (hsection _).mpr ⟨Vector.length_toList, fun i hi hi' => ?_⟩, ?_⟩
    · exact h ⟨i, hi'⟩
    · refine Vector.ext fun i hi => ?_
      rw [Vector.getElem_ofFn, List.getD_eq_getElem _ _ (by rw [Vector.length_toList]; exact hi)]
      rfl

theorem length_of_mem_sections {ws : Words} {t : List Char13} (h : t ∈ (plausibles ws).sections) :
    t.length = 10 := by
  rw [List.mem_sections_length h, plausibles, List.length_map, Vector.length_toList]

theorem tuples_nodup (ws : Words) : (tuples (plausibles ws)).Nodup := by
  refine List.Nodup.map_on (fun t ht t' ht' h => ?_) (nodup_sections _ fun l hl => ?_)
  · have hlen := length_of_mem_sections ht
    have hlen' := length_of_mem_sections ht'
    refine List.ext_getElem (hlen.trans hlen'.symm) fun i hi hi' => ?_
    have hget := congrArg (fun v : Words => v[i]'(by omega)) h
    simp only [Vector.getElem_ofFn] at hget
    rwa [List.getD_eq_getElem _ _ hi, List.getD_eq_getElem _ _ hi'] at hget
  · rw [plausibles, List.mem_map] at hl
    obtain ⟨w, -, rfl⟩ := hl
    exact plausible_nodup w

theorem productOf_eq (ps : List (List Char13)) : productOf ps = (tuples ps).length := by
  rw [productOf, tuples, List.length_map, length_sections]

/-- Valid words are their own only tuple. -/
theorem tuples_of_valid {ws : Words} (h : ∀ i : Fin 10, (romDec ws[i]).isSome = true) :
    tuples (plausibles ws) = [ws] := by
  have hmem : ∀ x : Words, x ∈ tuples (plausibles ws) ↔ x = ws := fun x => by
    rw [mem_tuples]
    constructor
    · intro hx
      refine Vector.ext fun i hi => ?_
      have hxi := hx ⟨i, hi⟩
      rw [plausible_of_valid (h ⟨i, hi⟩), List.mem_singleton] at hxi
      exact hxi
    · rintro rfl i
      rw [plausible_of_valid (h i), List.mem_singleton]
  have hperm : List.Perm (tuples (plausibles ws)) [ws] :=
    (List.perm_ext_iff_of_nodup (tuples_nodup ws) (List.nodup_singleton ws)).mpr fun x => by
      rw [hmem, List.mem_singleton]
  exact List.perm_singleton.mp hperm

theorem nil_mem_plausibles (ws : Words) :
    [] ∈ plausibles ws ↔ ∃ i : Fin 10, plausible ws[i] = [] := by
  rw [plausibles, List.mem_map]
  constructor
  · rintro ⟨w, hw, hnil⟩
    obtain ⟨i, hi, rfl⟩ := List.getElem_of_mem hw
    rw [Vector.length_toList] at hi
    exact ⟨⟨i, hi⟩, hnil⟩
  · rintro ⟨i, hnil⟩
    exact ⟨ws[i], by rw [Vector.mem_toList_iff]; exact Vector.getElem_mem i.isLt, hnil⟩

/-! ### The difference of two strings (rules R36, R260) -/

theorem diffOf_getLsbD (a b : Vector Byte 65) (p : Fin 65) :
    (diffOf a b).getLsbD p = decide (a[p] ≠ b[p]) := by
  have hbit : ∀ q : Fin 65, (if a[q] ≠ b[q] then BitVec.twoPow 65 q else 0).getLsbD p = true ↔
      q = p ∧ a[q] ≠ b[q] := fun q => by
    split
    case isTrue hne =>
      rw [BitVec.getLsbD_twoPow, Bool.and_eq_true, decide_eq_true_eq, decide_eq_true_eq, Fin.val_inj]
      exact ⟨fun h => ⟨h.2, hne⟩, fun h => ⟨q.isLt, h.1⟩⟩
    case isFalse heq => exact ⟨fun h => absurd h (by simp), fun h => absurd h.2 heq⟩
  have hfold : ∀ (l : List (Fin 65)) (d : BitVec 65),
      (l.foldl (fun (d : BitVec 65) (q : Fin 65) =>
        d ||| (if a[q] ≠ b[q] then BitVec.twoPow 65 q else 0)) d).getLsbD p = true ↔
      d.getLsbD p = true ∨ ∃ q ∈ l, q = p ∧ a[q] ≠ b[q] := by
    intro l
    induction l with
    | nil => intro d; simp
    | cons q rest ih =>
      intro d
      rw [List.foldl_cons, ih, BitVec.getLsbD_or, Bool.or_eq_true, hbit, or_assoc,
        List.exists_mem_cons_iff]
  rw [Bool.eq_iff_iff, diffOf, hfold, decide_eq_true_eq]
  constructor
  · rintro (h | ⟨q, -, rfl, hne⟩)
    · simp at h
    · exact hne
  · exact fun hne => .inr ⟨p, List.mem_finRange p, rfl, hne⟩

/-- Equal strings have no difference. -/
theorem diffOf_self (a : Vector Byte 65) : diffOf a a = 0 := by
  refine BitVec.eq_of_getLsbD_eq fun i hi => ?_
  refine (diffOf_getLsbD a a ⟨i, hi⟩).trans ?_
  simp

/-- Strings that differ in one place have that one bit. -/
theorem diffOf_single {a b : Vector Byte 65} {p : Fin 65} (h : ∀ q : Fin 65, a[q] ≠ b[q] ↔ q = p) :
    diffOf a b = BitVec.twoPow 65 p := by
  refine BitVec.eq_of_getLsbD_eq fun i hi => (diffOf_getLsbD a b ⟨i, hi⟩).trans ?_
  rw [BitVec.getLsbD_twoPow, decide_eq_true p.isLt, Bool.true_and, decide_eq_decide, h, Fin.ext_iff]
  exact eq_comm

end Sys2Proof.Proofs.FlipTuples
end

section
/-! SUPPORT. `REP.FLIP` (spec/49_recovery.md rules R256 to R262): its outcome as a function of the
string, its run, and the command. -/

namespace Sys2Proof.Proofs.FlipRepair

open Sys2Proof Sys2Proof.Machine Sys2Proof.Proofs.WordsDecode Sys2Proof.Proofs.FlipTuples

set_option Elab.async false
open Sys2Proof.Proofs.StrictDecoder

set_option Elab.async false

/-! ### The search (rules R258, R262) -/

/-- The tuples of a string's words that decode. -/
def goodTuples (ws : Words) : List Words :=
  (tuples (plausibles ws)).filter fun w => (recordOfWords w).isSome

/-- What the search notes down of one more tuple that decodes. -/
def hit (h : Hits) (w : Words) : Hits := { count := h.count + 1, good := w, found := decoded w }

theorem foldl_hit_count (l : List Words) (h : Hits) : (l.foldl hit h).count = h.count + l.length := by
  induction l generalizing h with
  | nil => rfl
  | cons w rest ih =>
    rw [List.foldl_cons, ih, List.length_cons]
    show h.count + 1 + rest.length = _
    omega

/-- The search tries every tuple and notes those that decode. -/
theorem flipSearch_run (L : Layout) (l : List Words) : ∀ (h : Hits) (s : State),
    ∃ u, ScratchFrame s u ∧
      flipSearch L l h s = flipEnd L ((l.filter fun w => (recordOfWords w).isSome).foldl hit h) u := by
  induction l with
  | nil => exact fun h s => ⟨s, .refl s, rfl⟩
  | cons w rest ih =>
    intro h s
    have hset : ScratchFrame s { s with w := w } := rfl
    rcases decodeWords_cases { s with w := w } with
      ⟨hcode, t, hrun, hrec, hframe⟩ | ⟨hcode, d, -, t, hrun, -, hframe⟩
    · obtain ⟨u, hu, hsearch⟩ := ih (hit h w) t
      refine ⟨u, (hset.trans hframe).trans hu, ?_⟩
      have hsome : (recordOfWords w).isSome = true := (recordOfWords_isSome w).mpr hcode
      have hfound : ({ count := h.count + 1, good := w, found := t.record } : Hits) = hit h w := by
        rw [hrec]
        rfl
      rw [flipSearch, tryWords, hrun, Run.tryThen_ok, hfound, hsearch,
        List.filter_cons_of_pos (p := fun w => (recordOfWords w).isSome) hsome, List.foldl_cons]
    · obtain ⟨u, hu, hsearch⟩ := ih h t
      refine ⟨u, (hset.trans hframe).trans hu, ?_⟩
      have hnone : ¬ (recordOfWords w).isSome = true := fun hc => hcode ((recordOfWords_isSome w).mp hc)
      rw [flipSearch, tryWords, hrun,
        List.filter_cons_of_neg (p := fun w => (recordOfWords w).isSome) hnone, ← hsearch]
      rfl

/-! ### The outcome, a function of the string alone -/

/-- How `REP.FLIP` ends on a string: the error it reports, or the words that it repairs to. -/
def flipResult (len : BitVec 7) (c : Vector Byte 65) : Except (DecReason × Detail) Words :=
  if len ≠ 65 then .error (.length, .none)
  else if c.toList.all isSym = false then .error (.invalidSymbol, .none)
  else if [] ∈ plausibles (gather layout c) then .error (.invalidBarcode, .noPlausible)
  else if productOf (plausibles (gather layout c)) > 1000 then .error (.invalidBarcode, .tooMany)
  else if (goodTuples (gather layout c)).length = 0 then .error (.invalidBarcode, .noSuccess)
  else if 2 ≤ (goodTuples (gather layout c)).length then .error (.invalidBarcode, .ambiguous)
  else .ok ((goodTuples (gather layout c)).getD 0 (gather layout c))

theorem all_isSym_iff (c : Vector Byte 65) : c.toList.all isSym = true ↔ allSyms c := by
  rw [Symbols.allSyms_iff, List.all_eq_true]
  constructor
  · exact fun h p => h _ (Vector.mem_toList_iff.mpr (Vector.getElem_mem p.isLt))
  · intro h x hx
    obtain ⟨i, hi, rfl⟩ := Vector.getElem_of_mem (Vector.mem_toList_iff.mp hx)
    exact h ⟨i, hi⟩

section
variable {c : Vector Byte 65}

theorem flipResult_of_length {len : BitVec 7} (h : len ≠ 65) :
    flipResult len c = .error (.length, .none) := if_pos h

theorem flipResult_of_symbol (h : ¬ allSyms c) :
    flipResult 65 c = .error (.invalidSymbol, .none) := by
  rw [← all_isSym_iff, Bool.not_eq_true] at h
  rw [flipResult, if_neg fun hc => hc rfl, if_pos h]

/-- On symbols the length and the bytes pass. -/
theorem flipResult_of_allSyms (h : allSyms c) : flipResult 65 c =
    if [] ∈ plausibles (gather layout c) then .error (.invalidBarcode, .noPlausible)
    else if productOf (plausibles (gather layout c)) > 1000 then .error (.invalidBarcode, .tooMany)
    else if (goodTuples (gather layout c)).length = 0 then .error (.invalidBarcode, .noSuccess)
    else if 2 ≤ (goodTuples (gather layout c)).length then .error (.invalidBarcode, .ambiguous)
    else .ok ((goodTuples (gather layout c)).getD 0 (gather layout c)) := by
  have hall := (all_isSym_iff c).mpr h
  rw [flipResult, if_neg fun hc => hc rfl, if_neg (by rw [hall]; decide)]

variable (hsym : allSyms c) (hne : [] ∉ plausibles (gather layout c))
include hsym

theorem flipResult_of_nil (h : [] ∈ plausibles (gather layout c)) :
    flipResult 65 c = .error (.invalidBarcode, .noPlausible) := by
  rw [flipResult_of_allSyms hsym, if_pos h]

include hne

theorem flipResult_of_many (h : productOf (plausibles (gather layout c)) > 1000) :
    flipResult 65 c = .error (.invalidBarcode, .tooMany) := by
  rw [flipResult_of_allSyms hsym, if_neg hne, if_pos h]

variable (hcap : productOf (plausibles (gather layout c)) ≤ 1000)
include hcap

theorem flipResult_of_none (h : (goodTuples (gather layout c)).length = 0) :
    flipResult 65 c = .error (.invalidBarcode, .noSuccess) := by
  rw [flipResult_of_allSyms hsym, if_neg hne, if_neg (Nat.not_lt.mpr hcap), if_pos h]

theorem flipResult_of_ambiguous (h : 2 ≤ (goodTuples (gather layout c)).length) :
    flipResult 65 c = .error (.invalidBarcode, .ambiguous) := by
  rw [flipResult_of_allSyms hsym, if_neg hne, if_neg (Nat.not_lt.mpr hcap), if_neg (by omega), if_pos h]

theorem flipResult_of_one {w : Words} (h : goodTuples (gather layout c) = [w]) :
    flipResult 65 c = .ok w := by
  rw [flipResult_of_allSyms hsym, if_neg hne, if_neg (Nat.not_lt.mpr hcap), h, if_neg (by simp),
    if_neg (by simp)]
  rfl

end

theorem isCode_of_goodTuples {ws w : Words} (h : w ∈ goodTuples ws) : IsCode w :=
  (recordOfWords_isSome w).mp (List.mem_filter.mp h).2

/-! ### The run (rule R262) -/

/-- The cleared registers that bit-flip repair starts from. -/
def flipStart (s : State) : State :=
  { s with diff := 0, sug := Vector.replicate 65 0, record := .absent }

/-- The state after a repair to the words `w`. -/
def flipped (w : Words) (u : State) : State :=
  { u with
    record := decoded w, sug := render layout w, diff := diffOf (render layout w) (sym65 u)
    status := { u.status with repair := 1 } }

/-- How `REP.FLIP` ends against the outcome of its string. -/
def FlipEnds (s : State) (run : Run) : Prop :=
  (∃ r d u, flipResult s.len (sym65 s) = .error (r, d) ∧ run = .raised (.decoding r d) u ∧
    u.record = .absent ∧ ScratchFrame (flipStart s) u) ∨
  (∃ w u, flipResult s.len (sym65 s) = .ok w ∧ IsCode w ∧ run = .ok (flipped w u) ∧
    ScratchFrame (flipStart s) u)

theorem any_isEmpty_iff (ps : List (List Char13)) : ps.any List.isEmpty = true ↔ [] ∈ ps := by
  rw [List.any_eq_true]
  constructor
  · rintro ⟨l, hl, he⟩
    rwa [List.isEmpty_iff.mp he] at hl
  · exact fun h => ⟨[], h, rfl⟩

/-- `REP.FLIP` on symbols, after the gathering. -/
theorem repFlip_of_allSyms {s : State} (hlen : s.len = 65) (hsym : allSyms (sym65 s)) :
    repFlip layout s =
      if (plausibles (gather layout (sym65 s))).any List.isEmpty then
        .raised (.decoding .invalidBarcode .noPlausible)
          { flipStart s with w := gather layout (sym65 s) }
      else if productOf (plausibles (gather layout (sym65 s))) > productCap then
        .raised (.decoding .invalidBarcode .tooMany) { flipStart s with w := gather layout (sym65 s) }
      else flipSearch layout (tuples (plausibles (gather layout (sym65 s))))
        { count := 0, good := gather layout (sym65 s), found := .absent }
        { flipStart s with w := gather layout (sym65 s) } := by
  rcases symParse_split (flipStart s) with ⟨-, -, hrun⟩ | ⟨hc, -⟩ | ⟨-, hc, -⟩
  · exact congrArg (fun run => Run.andThen run _) hrun
  · exact absurd hlen hc
  · exact absurd hsym hc

theorem repFlip_of_rejected {s : State} {e : Raise}
    (h : symParse layout (flipStart s) = .raised e (flipStart s)) :
    repFlip layout s = .raised e (flipStart s) := congrArg (fun run => Run.andThen run _) h

/-- All that `REP.FLIP` can do. -/
theorem repFlip_ends (s : State) : FlipEnds s (repFlip layout s) := by
  rcases symParse_split (flipStart s) with ⟨hlen, hsym, -⟩ | ⟨hlen, hrun⟩ | ⟨hlen, hsym, hrun⟩
  case inr.inl => exact .inl ⟨_, _, _, flipResult_of_length hlen, repFlip_of_rejected hrun, rfl, .refl _⟩
  case inr.inr =>
    have hlen' : s.len = 65 := hlen
    exact .inl ⟨_, _, _, by rw [hlen']; exact flipResult_of_symbol hsym, repFlip_of_rejected hrun, rfl,
      .refl _⟩
  have hlen' : s.len = 65 := hlen
  have hsym' : allSyms (sym65 s) := hsym
  have hset : ScratchFrame (flipStart s) { flipStart s with w := gather layout (sym65 s) } := rfl
  rw [FlipEnds, hlen', repFlip_of_allSyms hlen' hsym']
  by_cases hnil : [] ∈ plausibles (gather layout (sym65 s))
  · rw [if_pos ((any_isEmpty_iff _).mpr hnil)]
    exact .inl ⟨_, _, _, flipResult_of_nil hsym' hnil, rfl, rfl, hset⟩
  rw [if_neg fun hc => hnil ((any_isEmpty_iff _).mp hc)]
  by_cases hmany : productOf (plausibles (gather layout (sym65 s))) > productCap
  · rw [if_pos hmany]
    exact .inl ⟨_, _, _, flipResult_of_many hsym' hnil hmany, rfl, rfl, hset⟩
  rw [if_neg hmany]
  have hcap : productOf (plausibles (gather layout (sym65 s))) ≤ 1000 := Nat.le_of_not_lt hmany
  obtain ⟨u, hu, hsearch⟩ := flipSearch_run layout (tuples (plausibles (gather layout (sym65 s))))
    { count := 0, good := gather layout (sym65 s), found := .absent }
    { flipStart s with w := gather layout (sym65 s) }
  have hframe : ScratchFrame (flipStart s) (clearRecord u) := (hset.trans hu).trans rfl
  change flipSearch _ _ _ _ = flipEnd layout ((goodTuples (gather layout (sym65 s))).foldl hit _) u
    at hsearch
  have hcount := (foldl_hit_count (goodTuples (gather layout (sym65 s)))
    { count := 0, good := gather layout (sym65 s), found := .absent }).trans (Nat.zero_add _)
  rw [hsearch, flipEnd]
  by_cases h0 : (goodTuples (gather layout (sym65 s))).length = 0
  · rw [if_pos (hcount.trans h0)]
    exact .inl ⟨_, _, _, flipResult_of_none hsym' hnil hcap h0, rfl, rfl, hframe⟩
  rw [if_neg (by rw [hcount]; omega)]
  by_cases h2 : 2 ≤ (goodTuples (gather layout (sym65 s))).length
  · rw [if_pos (by rw [hcount]; omega)]
    exact .inl ⟨_, _, _, flipResult_of_ambiguous hsym' hnil hcap h2, rfl, rfl, hframe⟩
  rw [if_neg (by rw [hcount]; omega)]
  obtain ⟨w, hw⟩ := List.length_eq_one_iff.mp (by omega : (goodTuples (gather layout (sym65 s))).length = 1)
  refine .inr ⟨w, clearRecord u, flipResult_of_one hsym' hnil hcap hw,
    isCode_of_goodTuples (by rw [hw]; exact List.mem_singleton_self w), ?_, hframe⟩
  rw [hw]
  rfl

/-! ### The command -/

theorem exec_repFlip_eq {s : State} (hf : s.status.fault = 0) : exec .repFlip s =
    .next (finish ((repFlip layout { s with status := .zero }).mapState loseScratch)) :=
  command_of_fault_zero (fun s => (repFlip layout s).mapState loseScratch) s hf

/-- The command's end, on failure and on success. -/
theorem exec_repFlip_cases {s : State} (hf : s.status.fault = 0) :
    (∃ r d u, flipResult s.len (sym65 s) = .error (r, d) ∧
      exec .repFlip s = .next (takeRaise (.decoding r d) (loseScratch u)) ∧
      (takeRaise (.decoding r d) (loseScratch u)).status = decodingStatus r.code d.code ∧
      u.record = .absent ∧ ScratchFrame (flipStart { s with status := .zero }) u) ∨
    (∃ w u, flipResult s.len (sym65 s) = .ok w ∧ IsCode w ∧
      exec .repFlip s = .next (loseScratch (flipped w u)) ∧
      (loseScratch (flipped w u)).status = repairedStatus ∧
      ScratchFrame (flipStart { s with status := .zero }) u) := by
  rcases repFlip_ends { s with status := .zero } with
    ⟨r, d, u, hres, hrun, hrec, hframe⟩ | ⟨w, u, hres, hcode, hrun, hframe⟩
  · refine .inl ⟨r, d, u, hres, ?_, takeRaise_decoding_of_zero (t := loseScratch u) r d hframe.status,
      hrec, hframe⟩
    rw [exec_repFlip_eq hf, hrun]
    rfl
  · refine .inr ⟨w, u, hres, hcode, ?_, ?_, hframe⟩
    · rw [exec_repFlip_eq hf, hrun]
      rfl
    · show ({ u.status with repair := 1 } : Status) = repairedStatus
      rw [hframe.status]
      rfl

/-- What the command reports, by the outcome of the string. -/
theorem repFlip_of_error {s t : State} (hf : s.status.fault = 0) (ht : exec .repFlip s = .next t)
    {r : DecReason} {d : Detail} (hres : flipResult s.len (sym65 s) = .error (r, d)) :
    t.status = decodingStatus r.code d.code ∧ t.record = .absent ∧ t.repinfo = s.repinfo ∧
      t.sug = Vector.replicate 65 0 ∧ t.diff = 0 ∧ t.sym = s.sym ∧ t.len = s.len := by
  rcases exec_repFlip_cases hf with ⟨r', d', u, hres', hexec, hst, hrec, hframe⟩ | ⟨w, u, hres', -⟩
  · cases hres.symm.trans hres'
    cases hexec.symm.trans ht
    exact ⟨hst, hrec, hframe.repinfo, hframe.sug, hframe.diff, hframe.sym, hframe.len⟩
  · cases hres.symm.trans hres'

/-- What the command returns, by the outcome of the string. -/
theorem repFlip_of_ok {s t : State} (hf : s.status.fault = 0) (ht : exec .repFlip s = .next t)
    {w : Words} (hres : flipResult s.len (sym65 s) = .ok w) :
    t.status = repairedStatus ∧ t.record = decoded w ∧ t.sug = render layout w ∧
      t.diff = diffOf (render layout w) (sym65 s) := by
  rcases exec_repFlip_cases hf with ⟨r, d, u, hres', -⟩ | ⟨x, u, hres', -, hexec, hst, hframe⟩
  · cases hres.symm.trans hres'
  · cases hres.symm.trans hres'
    cases hexec.symm.trans ht
    exact ⟨hst, rfl, rfl, congrArg (diffOf (render layout w)) hframe.sym65⟩

theorem succeeded_of_repaired {t : State} (h : t.status = repairedStatus) :
    succeeded t = true := by
  rw [succeeded, h]
  rfl

theorem not_succeeded_takeRaise {s : State} {r d : BitVec 4} (h : s.status = decodingStatus r d)
    (hc : succeeded s = true) : False := by
  rw [not_succeeded_of_decoding h] at hc
  cases hc

/-- Settles O51. -/
theorem flipRepairNeedsOneTuple : Obligations.FlipRepairNeedsOneTuple := by
  refine ⟨by decide, mem_plausible, fun ws => ⟨mem_tuples ws, tuples_nodup ws, productOf_eq _⟩,
    fun s hf hlen hsym => ?_⟩
  have hresult : ∀ {x}, flipResult 65 (sym65 s) = x → flipResult s.len (sym65 s) = x := fun h => by
    rw [hlen]
    exact h
  rcases exec_repFlip_cases hf with
    ⟨r, d, u, hres, hexec, hstatus, hrec, hframe⟩ | ⟨w, u, hres, hcode, hexec, hstatus, hframe⟩
  · refine ⟨_, hexec, hframe.sym, hframe.len, hframe.repinfo, hframe.host, hframe.rdata,
      fun _ => ⟨hrec, hframe.sug, hframe.diff⟩, fun hnil => ?_, fun hnil hmany => ?_,
      fun hnil hcap h0 => ?_, fun hnil hcap h2 => ?_, fun hnil hcap w hw => ?_⟩
    · cases hres.symm.trans (hresult (flipResult_of_nil hsym hnil))
      exact hstatus
    · cases hres.symm.trans (hresult (flipResult_of_many hsym hnil hmany))
      exact hstatus
    · cases hres.symm.trans (hresult (flipResult_of_none hsym hnil hcap h0))
      exact hstatus
    · cases hres.symm.trans (hresult (flipResult_of_ambiguous hsym hnil hcap h2))
      exact hstatus
    · cases hres.symm.trans (hresult (flipResult_of_one hsym hnil hcap hw))
  · refine ⟨_, hexec, hframe.sym, hframe.len, hframe.repinfo, hframe.host, hframe.rdata,
      fun hc => ?_, fun hnil => ?_, fun hnil hmany => ?_,
      fun hnil hcap h0 => ?_, fun hnil hcap h2 => ?_, fun hnil hcap x hx => ?_⟩
    · rw [succeeded, hstatus] at hc
      cases hc
    · cases hres.symm.trans (hresult (flipResult_of_nil hsym hnil))
    · cases hres.symm.trans (hresult (flipResult_of_many hsym hnil hmany))
    · cases hres.symm.trans (hresult (flipResult_of_none hsym hnil hcap h0))
    · cases hres.symm.trans (hresult (flipResult_of_ambiguous hsym hnil hcap h2))
    · cases hres.symm.trans (hresult (flipResult_of_one hsym hnil hcap hx))
      refine ⟨hstatus, recordOfWords_of_isCode hcode, rfl, fun p => ?_⟩
      refine (diffOf_getLsbD _ _ p).trans ?_
      rw [hframe.sym65]
      simp only [Fin.getElem_fin, Symbols.sym65_getElem]
      rfl

/-! ### A barcode -/

theorem romDec_isSome_of_isCode {w : Words} (h : IsCode w) (i : Fin 10) : (romDec w[i]).isSome = true := by
  obtain ⟨r, hr, rfl⟩ := h
  rw [recordWords, PayloadWords.romDec_wordsOf _ (Pack.payloadOf_lt_splitBound hr)]
  rfl

/-- A barcode needs no repair: its words are their own only tuple. -/
theorem flipResult_of_isBarcode {c : Vector Byte 65} (h : isBarcode c) :
    flipResult 65 c = .ok (gather layout c) := by
  obtain ⟨hsym, hcode⟩ := (isBarcode_iff c).mp h
  have hvalid := romDec_isSome_of_isCode hcode
  have htuples := tuples_of_valid hvalid
  refine flipResult_of_one hsym (fun hnil => ?_) ?_ ?_
  · obtain ⟨i, hi⟩ := (nil_mem_plausibles _).mp hnil
    rw [plausible_of_valid (hvalid i)] at hi
    cases hi
  · rw [productOf_eq, htuples, List.length_singleton]
    decide
  · rw [goodTuples, htuples]
    exact List.filter_cons_of_pos (p := fun w => (recordOfWords w).isSome)
      ((recordOfWords_isSome _).mpr hcode)

/-- Settles O52. -/
theorem flipRepairOfABarcode : Obligations.FlipRepairOfABarcode := by
  intro s r hf hlen hvalid hm hsym
  obtain ⟨hbar, hdecoded⟩ := decoded_of_barcode hvalid hm hsym
  have hsyms := ((isBarcode_iff _).mp hbar).1
  have hresult : flipResult s.len (sym65 s) = .ok (gather layout (sym65 s)) := by
    rw [hlen]
    exact flipResult_of_isBarcode hbar
  rcases exec_repFlip_cases hf with ⟨r, d, u, hres, -⟩ | ⟨w, u, hres, -, hexec, hstatus, hframe⟩
  · cases hresult.symm.trans hres
  · cases hresult.symm.trans hres
    refine ⟨_, hexec, hstatus, hdecoded, render_gather_of_allSyms hsyms, ?_, hframe.sym, hframe.len,
      hframe.repinfo⟩
    show diffOf (render layout (gather layout (sym65 s))) (sym65 u) = 0
    rw [render_gather_of_allSyms hsyms, hframe.sym65]
    exact diffOf_self _

end Sys2Proof.Proofs.FlipRepair
end

section
/-! SUPPORT. `DEC.ORIENT` and `DECODE` (spec/49_recovery.md rules R263 to R269). -/

namespace Sys2Proof.Proofs.FullDecoder

open Sys2Proof Sys2Proof.Machine Sys2Proof.Proofs.WordsDecode Sys2Proof.Proofs.FlipRepair

set_option Elab.async false
open Sys2Proof.Proofs.StrictDecoder Sys2Proof.Proofs.LengthRepair

set_option Elab.async false

/-! ### The swap of the whole buffer (rules R167, R263) -/

/-- `SYM` after `SYM.FLIP`. -/
def flipSym (len : BitVec 7) (sym : Vector Byte 66) : Vector Byte 66 :=
  Vector.ofFn fun p => if p.val < len.toNat then swapAD sym[p] else sym[p]

theorem symFlip_eq (s : State) : symFlip s = .ok { s with sym := flipSym s.len s.sym } := rfl

theorem flipSym_flipSym (len : BitVec 7) (sym : Vector Byte 66) :
    flipSym len (flipSym len sym) = sym := by
  refine Vector.ext fun p hp => ?_
  simp only [flipSym, Vector.getElem_ofFn, Fin.getElem_fin]
  by_cases h : p < len.toNat
  · rw [if_pos h, if_pos h, swapAD_swapAD]
  · rw [if_neg h, if_neg h]

theorem sym65_flipSym {s : State} (h : s.len = 65) :
    sym65 { s with sym := flipSym s.len s.sym } = swapped (sym65 s) := by
  refine Vector.ext fun p hp => ?_
  have hlt : p < s.len.toNat := by
    rw [h]
    exact hp
  simp only [sym65, flipSym, swapped, Vector.getElem_ofFn, Fin.getElem_fin]
  rw [if_pos hlt]
  rfl

/-! ### Orientation detection (rule R265) -/

/-- The swap back, after the strict decoder has run on the swapped string. -/
theorem frame_after_swap {s t : State} (res : BitVec 32)
    (h : ScratchFrame (decodeStart { s with sym := flipSym s.len s.sym }) t) :
    ScratchFrame (decodeStart s)
      { clearRecord { t with sym := flipSym t.len t.sym } with res := res } := by
  have hlen := h.len
  have hsym := h.sym
  simp only [decodeStart] at hlen hsym
  have hback : flipSym t.len t.sym = s.sym := by rw [hlen, hsym, flipSym_flipSym]
  rw [hback]
  generalize flipSym s.len s.sym = sym at h
  unfold ScratchFrame at h ⊢
  rw [h]
  rfl

/-- All that `DEC.ORIENT` can do. -/
theorem decOrient_ends (s : State) :
    (s.len = 65 ∧ isBarcode (swapped (sym65 s)) ∧ ∃ u,
      decOrient layout s = .raised (.decoding .upsideDown .none) u ∧ u.record = .absent ∧ u.res = 1 ∧
      ScratchFrame (decodeStart s) u) ∨
    (¬ (s.len = 65 ∧ isBarcode (swapped (sym65 s))) ∧ ∃ u,
      decOrient layout s = .ok u ∧ u.record = .absent ∧ u.res = 0 ∧
      ScratchFrame (decodeStart s) u) := by
  have hiff : s.len = 65 ∧ isBarcode (sym65 { s with sym := flipSym s.len s.sym }) ↔
      s.len = 65 ∧ isBarcode (swapped (sym65 s)) :=
    and_congr_right fun hlen => by rw [sym65_flipSym hlen]
  have hsplit : decOrient layout s = (decStrict layout { s with sym := flipSym s.len s.sym }).tryThen
      (fun s => (symFlip s).andThen fun s =>
        .raised (.decoding .upsideDown .none) { clearRecord s with res := 1 })
      (fun _ s => (symFlip s).andThen fun s => .ok { clearRecord s with res := 0 }) := rfl
  rw [hsplit]
  rcases decStrict_cases { s with sym := flipSym s.len s.sym } with
    ⟨hlen, hbar, t, hrun, -, hframe⟩ | ⟨hnot, e, t, hraise, hrun, -, hframe⟩
  · obtain ⟨hlen, hswap⟩ := hiff.mp ⟨hlen, hbar⟩
    exact .inl ⟨hlen, hswap, _, by rw [hrun]; rfl, rfl, rfl, frame_after_swap 1 hframe⟩
  · obtain ⟨r, d, rfl⟩ := strictRaise_decoding hraise
    exact .inr ⟨fun hc => hnot (hiff.mpr hc), _, by rw [hrun]; rfl, rfl, rfl, frame_after_swap 0 hframe⟩

theorem exec_decOrient_eq {s : State} (hf : s.status.fault = 0) : exec .decOrient s =
    .next (finish ((decOrient layout { s with status := .zero }).mapState loseScratchButRes)) :=
  command_of_fault_zero (fun s => (decOrient layout s).mapState loseScratchButRes) s hf

/-- The command's two ends. -/
theorem exec_decOrient_cases {s : State} (hf : s.status.fault = 0) :
    (s.len = 65 ∧ isBarcode (swapped (sym65 s)) ∧ ∃ u,
      exec .decOrient s = .next (takeRaise (.decoding .upsideDown .none) (loseScratchButRes u)) ∧
      (takeRaise (.decoding .upsideDown .none) (loseScratchButRes u)).status = decodingStatus 3 0 ∧
      u.record = .absent ∧ u.res = 1 ∧ ScratchFrame (decodeStart { s with status := .zero }) u) ∨
    (¬ (s.len = 65 ∧ isBarcode (swapped (sym65 s))) ∧ ∃ u,
      exec .decOrient s = .next (loseScratchButRes u) ∧ u.status = .zero ∧ u.record = .absent ∧
      u.res = 0 ∧ ScratchFrame (decodeStart { s with status := .zero }) u) := by
  rcases decOrient_ends { s with status := .zero } with
    ⟨hlen, hbar, u, hrun, hrec, hres, hframe⟩ | ⟨hnot, u, hrun, hrec, hres, hframe⟩
  · refine .inl ⟨hlen, hbar, u, ?_,
      takeRaise_decoding_of_zero (t := loseScratchButRes u) .upsideDown .none hframe.status, hrec, hres,
      hframe⟩
    rw [exec_decOrient_eq hf, hrun]
    rfl
  · refine .inr ⟨hnot, u, ?_, hframe.status, hrec, hres, hframe⟩
    rw [exec_decOrient_eq hf, hrun]
    rfl

/-- Settles O53. -/
theorem orientationDetectsSwappedBarcodes : Obligations.OrientationDetectsSwappedBarcodes := by
  refine ⟨by decide, fun s hf => ?_⟩
  rcases exec_decOrient_cases hf with
    ⟨hlen, hbar, u, hexec, hstatus, hrec, hres, hframe⟩ | ⟨hnot, u, hexec, hstatus, hrec, hres, hframe⟩
  · exact ⟨_, hexec, hframe.sym, hframe.len, hrec, hframe.sug, hframe.diff, hframe.repinfo, hframe.host,
      hframe.rdata, fun _ => ⟨hstatus, hres⟩, fun hc => absurd ⟨hlen, hbar⟩ hc⟩
  · exact ⟨_, hexec, hframe.sym, hframe.len, hrec, hframe.sug, hframe.diff, hframe.repinfo, hframe.host,
      hframe.rdata, fun hc => absurd hc hnot, fun _ => ⟨hstatus, hres⟩⟩

/-! ### `DECODE` of 65 symbols (rule R268) -/

theorem decodeStart_of_frame {s u : State} (h : ScratchFrame (decodeStart s) u) :
    ScratchFrame (decodeStart s) (decodeStart u) := by
  rw [h]
  rfl

theorem flipStart_of_frame {s u : State} (h : ScratchFrame (decodeStart s) u) :
    ScratchFrame (decodeStart s) (flipStart u) := by
  rw [h]
  rfl

/-- `DECODE` of 65 symbols that are no barcode: the repair, else the orientation, else the repair's
error. -/
theorem decodeRun_of_not_barcode {s : State} (hlen : s.len = 65) (hsym : allSyms (sym65 s))
    (hbar : ¬ isBarcode (sym65 s)) :
    (∃ w u, flipResult 65 (sym65 s) = .ok w ∧ IsCode w ∧ decodeRun layout s = .ok (flipped w u) ∧
      ScratchFrame (decodeStart s) u) ∨
    (∃ r d u, flipResult 65 (sym65 s) = .error (r, d) ∧ u.record = .absent ∧
      ScratchFrame (decodeStart s) u ∧
      ((isBarcode (swapped (sym65 s)) ∧
          decodeRun layout s = .raised (.decoding .upsideDown .none) u) ∨
        (¬ isBarcode (swapped (sym65 s)) ∧
          decodeRun layout s = .raised (.decoding .invalidBarcode d) u))) := by
  have hall : allSymbols s.len.toNat (decodeStart s) = true := by
    rw [hlen]
    exact (Symbols.allSymbols_iff_allSyms _).mpr hsym
  have hphases : decodeRun layout s =
      (decStrict layout (decodeStart s)).tryThen .ok fun _ s => decodeRepair layout true s := by
    rw [decodeRun_eq, if_neg fun hc => hc.2.1 hlen]
    rw [if_neg (by rw [hall]; decide), if_pos hlen]
  rcases decStrict_cases (decodeStart s) with ⟨-, hc, -⟩ | ⟨-, e, t, hraise, hstrict, -, ht⟩
  · exact absurd hc hbar
  obtain ⟨r0, d0, rfl⟩ := strictRaise_decoding hraise
  have htframe : ScratchFrame (decodeStart s) t := ht
  have hrepair : decodeRun layout s = decodeRepair layout true t := by
    rw [hphases, hstrict]
    rfl
  have htsym : sym65 t = sym65 s := htframe.sym65
  have htlen : t.len = 65 := htframe.len.trans hlen
  have hends := repFlip_ends t
  rw [FlipEnds, htsym, htlen] at hends
  rcases hends with ⟨r, d, v, hres, hflip, -, hv⟩ | ⟨w, v, hres, hcode, hflip, hv⟩
  · have hvframe := (flipStart_of_frame htframe).trans hv
    have hvlen : v.len = 65 := hvframe.len.trans hlen
    have horient : decodeRun layout s =
        (decOrient layout v).andThen fun s => .raised (.decoding .invalidBarcode d) s := by
      rw [hrepair, decodeRepair, hflip]
      rfl
    rw [horient]
    rcases decOrient_ends v with ⟨-, hswap, u, hrun, hrec, -, hu⟩ | ⟨hnot, u, hrun, hrec, -, hu⟩
    · rw [hvframe.sym65] at hswap
      exact .inr ⟨r, d, u, hres, hrec, (decodeStart_of_frame hvframe).trans hu,
        .inl ⟨hswap, by rw [hrun, Run.andThen_raised]⟩⟩
    · rw [hvframe.sym65] at hnot
      exact .inr ⟨r, d, u, hres, hrec, (decodeStart_of_frame hvframe).trans hu,
        .inr ⟨fun hc => hnot ⟨hvlen, hc⟩, by rw [hrun, Run.andThen_ok]⟩⟩
  · refine .inl ⟨w, v, hres, hcode, ?_, (flipStart_of_frame htframe).trans hv⟩
    rw [hrepair, decodeRepair, hflip]
    rfl

theorem exec_decodeSym_eq {s : State} (hf : s.status.fault = 0) : exec .decodeSym s =
    .next (finish (decodeScratch (decodeRun layout { s with status := .zero }))) :=
  command_of_fault_zero (fun s => decodeScratch (decodeRun layout s)) s hf

theorem flipped_status {s u : State} (w : Words)
    (h : ScratchFrame (decodeStart { s with status := .zero }) u) :
    (flipped w u).status = repairedStatus := by
  show ({ u.status with repair := 1 } : Status) = repairedStatus
  rw [h.status]
  rfl

/-- A repaired decode leaves the scratch registers open. -/
theorem exec_decodeSym_of_flipped {s u : State} {w : Words} (hf : s.status.fault = 0)
    (hrun : decodeRun layout { s with status := .zero } = .ok (flipped w u))
    (hstatus : (flipped w u).status = repairedStatus) :
    exec .decodeSym s = .next (loseScratch (flipped w u)) := by
  rw [exec_decodeSym_eq hf, hrun, decodeScratch, hstatus, if_neg (by decide)]
  rfl

theorem exec_decodeSym_of_raised {s u : State} {e : Raise} (hf : s.status.fault = 0)
    (hrun : decodeRun layout { s with status := .zero } = .raised e u) :
    exec .decodeSym s = .next (takeRaise e (loseScratch u)) := by
  rw [exec_decodeSym_eq hf, hrun]
  rfl

/-- On symbols bit-flip repair reports nothing but an invalid barcode. -/
theorem flipResult_error_reason {c : Vector Byte 65} (h : allSyms c) {r : DecReason} {d : Detail}
    (hres : flipResult 65 c = .error (r, d)) : r = .invalidBarcode := by
  rw [flipResult_of_allSyms h] at hres
  split_ifs at hres <;> cases hres <;> rfl

/-- What `DEC.ORIENT` reports of 65 symbols. -/
theorem decOrient_status {s t : State} (hf : s.status.fault = 0) (hlen : s.len = 65)
    (ht : exec .decOrient s = .next t) :
    (isBarcode (swapped (sym65 s)) → t.status = decodingStatus 3 0) ∧
    (¬ isBarcode (swapped (sym65 s)) → t.status = .zero) := by
  rcases exec_decOrient_cases hf with ⟨-, hbar, u, hexec, hst, -⟩ | ⟨hnot, u, hexec, hst, -⟩
  · cases hexec.symm.trans ht
    exact ⟨fun _ => hst, fun hc => absurd hbar hc⟩
  · cases hexec.symm.trans ht
    exact ⟨fun hc => absurd ⟨hlen, hc⟩ hnot, fun _ => hst⟩

/-- `DECODE` after a strict decode that failed: the repair, else the orientation, else the repair's
error (rule R268). -/
theorem decode_after_strict {s b c : State} (hf : s.status.fault = 0) (hlen : s.len = 65)
    (hsym : allSyms (sym65 s)) (hbar : ¬ isBarcode (sym65 s)) (hb : exec .repFlip s = .next b)
    (hc : exec .decOrient s = .next c) :
    ∃ t, exec .decodeSym s = .next t ∧ t.sym = s.sym ∧ t.len = s.len ∧ t.repinfo = 0 ∧
      (succeeded b = true →
        t.status = b.status ∧ t.record = b.record ∧ t.sug = b.sug ∧ t.diff = b.diff) ∧
      (succeeded b = false →
        t.record = .absent ∧ t.sug = Vector.replicate 65 0 ∧ t.diff = 0 ∧
        (succeeded c = false → t.status = c.status) ∧ (succeeded c = true → t.status = b.status)) := by
  have hresult : ∀ {x}, flipResult 65 (sym65 s) = x → flipResult s.len (sym65 s) = x := fun h => by
    rw [hlen]
    exact h
  obtain ⟨hcswap, hcplain⟩ := decOrient_status hf hlen hc
  rcases decodeRun_of_not_barcode (s := { s with status := .zero }) hlen hsym hbar with
    ⟨w, u, hres, -, hrun, hframe⟩ | ⟨r, d, u, hres, hrec, hframe, horient⟩
  · obtain ⟨hbst, hbrec, hbsug, hbdiff⟩ := repFlip_of_ok hf hb (hresult hres)
    have hstatus := flipped_status w hframe
    refine ⟨_, exec_decodeSym_of_flipped hf hrun hstatus, hframe.sym, hframe.len, hframe.repinfo,
      fun _ => ⟨hstatus.trans hbst.symm, hbrec.symm, hbsug.symm, ?_⟩, fun hfail => ?_⟩
    · rw [hbdiff]
      exact congrArg (diffOf (render layout w)) hframe.sym65
    · rw [succeeded_of_repaired hbst] at hfail
      cases hfail
  · obtain rfl := flipResult_error_reason hsym hres
    obtain ⟨hbst, -⟩ := repFlip_of_error hf hb (hresult hres)
    have hstatus : ∀ (x : DecReason) (y : Detail),
        (takeRaise (.decoding x y) (loseScratch u)).status = decodingStatus x.code y.code := fun x y =>
      takeRaise_decoding_of_zero (t := loseScratch u) x y hframe.status
    rcases horient with ⟨hswap, hrun⟩ | ⟨hswap, hrun⟩
    · have hcst := hcswap hswap
      exact ⟨_, exec_decodeSym_of_raised hf hrun, hframe.sym, hframe.len, hframe.repinfo,
        fun h => (not_succeeded_takeRaise hbst h).elim, fun _ => ⟨hrec, hframe.sug, hframe.diff,
          fun _ => (hstatus _ _).trans hcst.symm, fun h => (not_succeeded_takeRaise hcst h).elim⟩⟩
    · refine ⟨_, exec_decodeSym_of_raised hf hrun, hframe.sym, hframe.len, hframe.repinfo,
        fun h => (not_succeeded_takeRaise hbst h).elim, fun _ => ⟨hrec, hframe.sug, hframe.diff,
          fun hfail => ?_, fun _ => (hstatus _ _).trans hbst.symm⟩⟩
      rw [succeeded_of_zero (hcplain hswap)] at hfail
      cases hfail

/-- Settles O54. -/
theorem decodeOf65IsItsPhases : Obligations.DecodeOf65IsItsPhases := by
  refine ⟨by decide, fun s hf hlen hsym => ?_⟩
  obtain ⟨b, hb⟩ := Port.exec_next .repFlip s
  obtain ⟨c, hc⟩ := Port.exec_next .decOrient s
  rcases exec_decStrict_cases hf with
    ⟨-, -, a, hrun, ha, hstatus, -, hframe⟩ | ⟨hnot, r, d, v, -, ha, hstatus, -, -⟩
  · have hok : ¬ succeeded a = false := by
      rw [succeeded_of_zero hstatus]
      decide
    exact ⟨a, b, c, a, ha, hb, hc, exec_decodeSym_of_strict hf hlen hsym hrun hstatus, hframe.sym,
      hframe.len, hframe.repinfo, fun _ => rfl, fun hfail => absurd hfail hok,
      fun hfail => absurd hfail hok⟩
  · obtain ⟨t, ht, htsym, htlen, htrep, hbok, hbfail⟩ :=
      decode_after_strict hf hlen hsym (fun h => hnot ⟨hlen, h⟩) hb hc
    exact ⟨_, b, c, t, ha, hb, hc, ht, htsym, htlen, htrep,
      fun h => (not_succeeded_takeRaise hstatus h).elim, fun _ => hbok, fun _ => hbfail⟩

end Sys2Proof.Proofs.FullDecoder
end

section
/-! SUPPORT. `DECODE` of 64 and 66 symbols, and the inputs that the decode commands reject
(spec/49_recovery.md rules R251, R262, R268; spec/48_decode.md rule R231). -/

namespace Sys2Proof.Proofs.DecodeEnds

open Sys2Proof Sys2Proof.Machine Sys2Proof.Proofs.WordsDecode Sys2Proof.Proofs.FlipRepair

set_option Elab.async false
open Sys2Proof.Proofs.StrictDecoder Sys2Proof.Proofs.LengthRepair Sys2Proof.Proofs.FullDecoder

set_option Elab.async false

/-! ### `DECODE` of 64 and 66 symbols (rule R268) -/

theorem sym65_lenRepaired (s : State) (b j : Nat) :
    sym65 (lenRepaired s b j) = candidate (symbols s) j := sym65_of_bufferOf rfl

/-- `DECODE` of 64 or 66 symbols: the length repair's failure, or the bit-flip repair of its
candidate. -/
theorem decodeRun_of_lengths {s : State} (hlen : s.len = 64 ∨ s.len = 66) (hsym : inputSymbols s)
    {b j : Nat} (hbest : bestCandidate layout (symbols s) = (b, j)) :
    (5 ≤ b ∧ decodeRun layout s = .raised (.decoding .length .lenRepairFailed)
      { lenStart (decodeStart s) with res := BitVec.ofNat 32 b }) ∨
    (b < 5 ∧ ∃ r d u, flipResult 65 (candidate (symbols s) j) = .error (r, d) ∧
      decodeRun layout s = .raised (.decoding .length d) u ∧ u.record = .absent ∧
      ScratchFrame (flipStart (lenRepaired (decodeStart s) b j)) u) ∨
    (b < 5 ∧ ∃ w u, flipResult 65 (candidate (symbols s) j) = .ok w ∧ IsCode w ∧
      decodeRun layout s = .ok (flipped w u) ∧
      ScratchFrame (flipStart (lenRepaired (decodeStart s) b j)) u) := by
  have hall : allSymbols s.len.toNat (decodeStart s) = true :=
    (Symbols.allSymbols_iff_inputSymbols s).mpr hsym
  have hphases : decodeRun layout s = (repLen layout (decodeStart s)).tryThen (decodeRepair layout false)
      fun _ s => .raised (.decoding .length .lenRepairFailed) s := by
    rw [decodeRun_eq, if_neg (by rcases hlen with h | h <;> simp [h])]
    rw [if_neg (by rw [hall]; decide), if_neg (by rcases hlen with h | h <;> simp [h])]
  rcases repLen_scan (s := decodeStart s) hlen hsym hbest with ⟨h5, hrun⟩ | ⟨h5, hrun⟩
  · refine .inl ⟨h5, ?_⟩
    rw [hphases, hrun]
    rfl
  have hrepair : decodeRun layout s = (repFlip layout (lenRepaired (decodeStart s) b j)).tryThen .ok
      fun e s => .raised (.decoding .length e.detail) s := by
    rw [hphases, hrun]
    rfl
  have hends := repFlip_ends (lenRepaired (decodeStart s) b j)
  rw [FlipEnds, sym65_lenRepaired] at hends
  rcases hends with ⟨r, d, u, hres, hflip, hrec, hu⟩ | ⟨w, u, hres, hcode, hflip, hu⟩
  · exact .inr (.inl ⟨h5, r, d, u, hres, by rw [hrepair, hflip]; rfl, hrec, hu⟩)
  · exact .inr (.inr ⟨h5, w, u, hres, hcode, by rw [hrepair, hflip]; rfl, hu⟩)

theorem flipped_status_of_lengths {s u : State} (w : Words) {b j : Nat}
    (h : ScratchFrame (flipStart (lenRepaired (decodeStart { s with status := .zero }) b j)) u) :
    (flipped w u).status = repairedStatus := by
  show ({ u.status with repair := 1 } : Status) = repairedStatus
  rw [h.status]
  rfl

/-- `DECODE` of 64 or 66 symbols after a length repair that succeeded. -/
theorem decode_after_length {s b : State} {k j : Nat} (hf : s.status.fault = 0)
    (hlen : s.len = 64 ∨ s.len = 66) (hsym : inputSymbols s)
    (hbest : bestCandidate layout (symbols s) = (k, j)) (h5 : k < 5)
    (hb : exec .repFlip (loseScratchButRes (lenRepaired { s with status := .zero } k j)) = .next b) :
    ∃ t, exec .decodeSym s = .next t ∧ t.sym = (lenRepaired { s with status := .zero } k j).sym ∧
      t.len = 65 ∧ t.repinfo = (lenRepaired { s with status := .zero } k j).repinfo ∧
      (succeeded b = true →
        t.status = repairedStatus ∧ t.record = b.record ∧ t.sug = b.sug ∧ t.diff = b.diff) ∧
      (succeeded b = false → t.status = decodingStatus 1 b.status.detail) ∧
      (succeeded t = false → t.record = .absent ∧ t.sug = Vector.replicate 65 0 ∧ t.diff = 0) := by
  have hbsym : sym65 (loseScratchButRes (lenRepaired { s with status := .zero } k j)) =
      candidate (symbols s) j := sym65_of_bufferOf rfl
  have hresult : ∀ {x}, flipResult 65 (candidate (symbols s) j) = x →
      flipResult (loseScratchButRes (lenRepaired { s with status := .zero } k j)).len
        (sym65 (loseScratchButRes (lenRepaired { s with status := .zero } k j))) = x := fun h => by
    rw [hbsym]
    exact h
  rcases decodeRun_of_lengths (s := { s with status := .zero }) hlen hsym hbest with
    ⟨hge, -⟩ | ⟨-, r, d, u, hres, hrun, hrec, hframe⟩ | ⟨-, w, u, hres, -, hrun, hframe⟩
  · omega
  · obtain ⟨hbst, -⟩ := repFlip_of_error rfl hb (hresult hres)
    refine ⟨_, exec_decodeSym_of_raised hf hrun, hframe.sym, hframe.len, hframe.repinfo,
      fun h => (not_succeeded_takeRaise hbst h).elim, fun _ => ?_,
      fun _ => ⟨hrec, hframe.sug, hframe.diff⟩⟩
    rw [hbst]
    exact takeRaise_decoding_of_zero (t := loseScratch u) .length d hframe.status
  · obtain ⟨hbst, hbrec, hbsug, hbdiff⟩ := repFlip_of_ok rfl hb (hresult hres)
    have hstatus := flipped_status_of_lengths w hframe
    refine ⟨_, exec_decodeSym_of_flipped hf hrun hstatus, hframe.sym, hframe.len, hframe.repinfo,
      fun _ => ⟨hstatus, hbrec.symm, hbsug.symm, ?_⟩, fun h => ?_, fun h => ?_⟩
    · rw [hbdiff, hbsym]
      exact congrArg (diffOf (render layout w)) (hframe.sym65.trans (sym65_lenRepaired _ _ _))
    · rw [succeeded_of_repaired hbst] at h
      cases h
    · rw [succeeded_of_repaired (t := loseScratch (flipped w u)) hstatus] at h
      cases h

/-- Settles O55. -/
theorem decodeOf64Or66IsItsPhases : Obligations.DecodeOf64Or66IsItsPhases := by
  intro s hf hlen hsym
  obtain ⟨k, j, hbest⟩ : ∃ k j, bestCandidate layout (symbols s) = (k, j) := ⟨_, _, rfl⟩
  rcases exec_repLen_scan hf hlen hsym hbest with ⟨h5, ha⟩ | ⟨h5, ha⟩
  · obtain ⟨b, hb⟩ := Port.exec_next .repFlip (takeRaise (.decoding .invalidBarcode .lenRepairFailed)
      (loseScratchButRes { lenStart { s with status := .zero } with res := BitVec.ofNat 32 k }))
    rcases decodeRun_of_lengths (s := { s with status := .zero }) hlen hsym hbest with
      ⟨-, hrun⟩ | ⟨hlt, -⟩ | ⟨hlt, -⟩
    · exact ⟨_, b, _, ha, hb, exec_decodeSym_of_raised hf hrun, rfl, rfl, rfl,
        fun _ => ⟨rfl, rfl, rfl⟩, fun h => (by cases h), fun h => (by cases h),
        fun _ => ⟨rfl, rfl, rfl⟩⟩
    · omega
    · omega
  · obtain ⟨b, hb⟩ := Port.exec_next .repFlip
      (loseScratchButRes (lenRepaired { s with status := .zero } k j))
    obtain ⟨t, ht, htsym, htlen, htrep, hbok, hbfail, htfail⟩ :=
      decode_after_length hf hlen hsym hbest h5 hb
    exact ⟨_, b, t, ha, hb, ht, htsym, htlen, htrep, fun h => (by cases h), fun _ => hbok,
      fun _ => hbfail, htfail⟩

/-! ### Rejected inputs (rules R231, R251, R262, R268) -/

/-- The reports of `REP.LEN`. -/
theorem repLen_rejects {s t : State} (hf : s.status.fault = 0) (ht : exec .repLen s = .next t) :
    (s.len ≠ 64 → s.len ≠ 66 → rejected s t (decodingStatus 1 0) s.record 0) ∧
    (s.len = 64 ∨ s.len = 66 → ¬ inputSymbols s → rejected s t (decodingStatus 2 0) s.record 0) := by
  have hif : ∀ (c : Bool) (u : State) (e : Raise),
      finish ((Run.raised e u).mapState (if c then loseScratchButRes else loseScratch)) =
        takeRaise e (if c then loseScratchButRes u else loseScratch u) := fun c u e => by
    cases c <;> rfl
  have hkeep : ∀ (c : Bool) (u : State) (r : DecReason), u.status = .zero →
      u.repinfo = 0 → u.sug = Vector.replicate 65 0 → u.diff = 0 → u.sym = s.sym → u.len = s.len →
      u.record = s.record →
      rejected s (takeRaise (.decoding r .none) (if c then loseScratchButRes u else loseScratch u))
        (decodingStatus r.code 0) s.record 0 := fun c u r hst hrep hsug hdiff hsym hlen hrec => by
    cases c
    · exact ⟨takeRaise_decoding_of_zero (t := loseScratch u) r .none hst, hrec, hrep, hsug, hdiff, hsym, hlen⟩
    · exact ⟨takeRaise_decoding_of_zero (t := loseScratchButRes u) r .none hst, hrec, hrep, hsug, hdiff,
        hsym, hlen⟩
  rw [exec_repLen_eq hf] at ht
  rcases repLen_cases layout { s with status := .zero } with
    ⟨h64, h66, hrun⟩ | ⟨hlen, hno, hrun⟩ | ⟨hlen, hall, -⟩ | ⟨hlen, hall, -⟩
  · rw [hrun, hif] at ht
    cases ht
    exact ⟨fun _ _ => hkeep _ _ .length rfl rfl rfl rfl rfl rfl rfl,
      fun h => absurd h (not_or.mpr ⟨h64, h66⟩)⟩
  · rw [hrun, hif] at ht
    cases ht
    exact ⟨fun h64 h66 => absurd hlen (not_or.mpr ⟨h64, h66⟩),
      fun _ _ => hkeep _ _ .invalidSymbol rfl rfl rfl rfl rfl rfl rfl⟩
  all_goals
    exact ⟨fun h64 h66 => absurd hlen (not_or.mpr ⟨h64, h66⟩),
      fun _ h => absurd ((Symbols.allSymbols_iff_inputSymbols { s with status := .zero }).mp hall) h⟩

/-- A report of `DECODE` before any of its phases. -/
theorem decode_rejects {s t : State} (hf : s.status.fault = 0) (ht : exec .decodeSym s = .next t)
    {r : DecReason} (hrun : decodeRun layout { s with status := .zero } =
      .raised (.decoding r .none) (decodeStart { s with status := .zero })) :
    rejected s t (decodingStatus r.code 0) .absent 0 := by
  cases (exec_decodeSym_of_raised hf hrun).symm.trans ht
  exact ⟨takeRaise_decoding_of_zero (t := loseScratch (decodeStart { s with status := .zero })) r .none rfl,
    rfl, rfl, rfl, rfl, rfl, rfl⟩

theorem decodeRun_of_length {s : State} (h64 : s.len ≠ 64) (h65 : s.len ≠ 65) (h66 : s.len ≠ 66) :
    decodeRun layout s = .raised (.decoding .length .none) (decodeStart s) := by
  rw [decodeRun_eq, if_pos ⟨h64, h65, h66⟩]

theorem decodeRun_of_symbol {s : State} (hlen : s.len = 64 ∨ s.len = 65 ∨ s.len = 66)
    (hsym : ¬ inputSymbols s) :
    decodeRun layout s = .raised (.decoding .invalidSymbol .none) (decodeStart s) := by
  have hall : allSymbols s.len.toNat (decodeStart s) = false := by
    rw [← Bool.not_eq_true]
    exact fun h => hsym ((Symbols.allSymbols_iff_inputSymbols (decodeStart s)).mp h)
  rw [decodeRun_eq, if_neg (by tauto), if_pos hall]

/-- The reports of `DEC.STRICT`. -/
theorem decStrict_rejects {s t : State} (hf : s.status.fault = 0) (ht : exec .decStrict s = .next t) :
    (s.len ≠ 65 → rejected s t (decodingStatus 1 0) .absent 0) ∧
    (s.len = 65 → ¬ allSyms (sym65 s) → rejected s t (decodingStatus 2 0) .absent 0) := by
  rcases exec_decStrict_cases hf with
    ⟨hlen, hbar, -⟩ | ⟨-, r, d, u, hraise, hexec, hst, hrec, hframe⟩
  · exact ⟨fun h => absurd hlen h, fun _ h => absurd ((isBarcode_iff _).mp hbar).1 h⟩
  · cases hexec.symm.trans ht
    have hrej : rejected s (takeRaise (.decoding r d) u) (decodingStatus r.code d.code) .absent 0 :=
      ⟨hst, hrec, hframe.repinfo, hframe.sug, hframe.diff, hframe.sym, hframe.len⟩
    rcases hraise with ⟨hlen, he⟩ | ⟨hlen, hsym, he⟩ | ⟨hlen, hsym, d', -, he⟩
    · cases he
      exact ⟨fun _ => hrej, fun h => absurd h hlen⟩
    · cases he
      exact ⟨fun h => absurd hlen h, fun _ _ => hrej⟩
    · exact ⟨fun h => absurd hlen h, fun _ h => absurd hsym h⟩

/-- Settles O56. -/
theorem unacceptableInputIsReportedFirst : Obligations.UnacceptableInputIsReportedFirst := by
  intro s hf
  obtain ⟨l, hl⟩ := Port.exec_next .repLen s
  obtain ⟨f, hfl⟩ := Port.exec_next .repFlip s
  obtain ⟨d, hd⟩ := Port.exec_next .decodeSym s
  obtain ⟨c, hc⟩ := Port.exec_next .decStrict s
  obtain ⟨hl1, hl2⟩ := repLen_rejects hf hl
  obtain ⟨hc1, hc2⟩ := decStrict_rejects hf hc
  refine ⟨l, f, d, c, hl, hfl, hd, hc, hl1, hl2, fun h => ?_, fun h hs => ?_, fun h64 h65 h66 => ?_,
    fun h hs => ?_, hc1, hc2⟩
  · exact repFlip_of_error hf hfl (flipResult_of_length h)
  · refine repFlip_of_error hf hfl (r := .invalidSymbol) (d := .none) ?_
    rw [h]
    exact flipResult_of_symbol hs
  · exact decode_rejects hf hd (decodeRun_of_length (s := { s with status := .zero }) h64 h65 h66)
  · exact decode_rejects hf hd (decodeRun_of_symbol (s := { s with status := .zero }) h hs)

end Sys2Proof.Proofs.DecodeEnds
end

section
/-! SUPPORT. One damaged symbol (spec/49_recovery.md section 6): its halves sit in two different words,
so that each word of the damaged string is the barcode's word or an invalid one-bit neighbour of it. -/

namespace Sys2Proof.Proofs.Damage

open Sys2Proof Sys2Proof.Machine Sys2Proof.Proofs.WordsDecode Sys2Proof.Proofs.FlipTuples

set_option Elab.async false
open Sys2Proof.Proofs.FlipRepair Sys2Proof.Proofs.StrictDecoder Sys2Proof.Proofs.FullDecoder

set_option Elab.async false

/-! ### The words of the damaged string -/

/-- The two halves of a symbol sit in two different words. -/
theorem halves_in_two_words : ∀ p : Fin 65, layout.descChar[p] ≠ layout.ascChar[p] := by decide

/-- Words that agree in all bits but one are equal or one-bit neighbours. -/
theorem eq_or_flip {x y : Char13} {b : Fin 13}
    (h : ∀ k : Fin 13, k ≠ b → x.getLsbD k = y.getLsbD k) : x = y ∨ x = y ^^^ BitVec.twoPow 13 b := by
  by_cases hb : x.getLsbD b = y.getLsbD b
  · refine .inl (BitVec.eq_of_getLsbD_eq fun k hk => ?_)
    by_cases hkb : (⟨k, hk⟩ : Fin 13) = b
    · rw [← hkb] at hb
      exact hb
    · exact h ⟨k, hk⟩ hkb
  · refine .inr (BitVec.eq_of_getLsbD_eq fun k hk => ?_)
    rw [BitVec.getLsbD_xor, BitVec.getLsbD_twoPow, decide_eq_true b.isLt, Bool.true_and]
    by_cases hkb : (⟨k, hk⟩ : Fin 13) = b
    · rw [← hkb] at hb ⊢
      rw [decide_eq_true rfl, Bool.xor_true]
      exact Bool.eq_not_of_ne hb
    · rw [decide_eq_false fun hc => hkb (Fin.ext hc.symm), Bool.xor_false]
      exact h ⟨k, hk⟩ hkb

section
variable {str str' : Vector Byte 65} {p : Fin 65} (hsame : ∀ q : Fin 65, q ≠ p → str'[q] = str[q])
include hsame

/-- Only the two halves of the damaged symbol can change a bit. -/
theorem gather_bit_eq {i : Fin 10} {b : Fin 13} (hd : Symbols.descPair layout p ≠ (i, b))
    (ha : Symbols.ascPair layout p ≠ (i, b)) :
    (gather layout str')[i].getLsbD b = (gather layout str)[i].getLsbD b := by
  rcases Symbols.exists_half Symbols.layout_bijective (i, b) with ⟨q, hq⟩ | ⟨q, hq⟩
  · have hqp : q ≠ p := fun hc => hd (hc ▸ hq)
    obtain ⟨rfl, rfl⟩ := Prod.mk.inj hq
    rw [Symbols.gather_desc Symbols.layout_bijective, Symbols.gather_desc Symbols.layout_bijective,
      hsame q hqp]
  · have hqp : q ≠ p := fun hc => ha (hc ▸ hq)
    obtain ⟨rfl, rfl⟩ := Prod.mk.inj hq
    rw [Symbols.gather_asc Symbols.layout_bijective, Symbols.gather_asc Symbols.layout_bijective,
      hsame q hqp]

/-- Each word of the damaged string is the original word or a one-bit neighbour of it; only the two
words of the damaged symbol can be neighbours. -/
theorem gather_near (i : Fin 10) :
    (gather layout str')[i] = (gather layout str)[i] ∨
    ((i = layout.descChar[p] ∨ i = layout.ascChar[p]) ∧
      ∃ b : Fin 13, (gather layout str')[i] = (gather layout str)[i] ^^^ BitVec.twoPow 13 b) := by
  have htwo := halves_in_two_words p
  by_cases hd : i = layout.descChar[p]
  · refine (eq_or_flip (b := layout.descBit[p]) fun k hk => gather_bit_eq hsame ?_ ?_).imp_right
      fun h => ⟨.inl hd, _, h⟩
    · exact fun hc => hk (Prod.mk.inj hc).2.symm
    · exact fun hc => htwo ((Prod.mk.inj hc).1.trans hd).symm
  by_cases ha : i = layout.ascChar[p]
  · refine (eq_or_flip (b := layout.ascBit[p]) fun k hk => gather_bit_eq hsame ?_ ?_).imp_right
      fun h => ⟨.inr ha, _, h⟩
    · exact fun hc => htwo ((Prod.mk.inj hc).1.trans ha)
    · exact fun hc => hk (Prod.mk.inj hc).2.symm
  · refine .inl (BitVec.eq_of_getLsbD_eq fun k hk => gather_bit_eq (b := ⟨k, hk⟩) hsame ?_ ?_)
    · exact fun hc => hd (Prod.mk.inj hc).1.symm
    · exact fun hc => ha (Prod.mk.inj hc).1.symm

end

/-! ### The plausible lists of the damaged string -/

theorem length_plausible_le (w : Char13) : (plausible w).length ≤ 13 := by
  unfold plausible
  split
  · exact Nat.le_of_ble_eq_true rfl
  · exact (List.length_filter_le _ _).trans (by rw [List.length_map, List.length_range])

theorem productOf_plausibles (ws : Words) :
    productOf (plausibles ws) = ∏ i : Fin 10, (plausible ws[i]).length := by
  have hlist : ws.toList = List.ofFn fun i : Fin 10 => ws[i] := by
    refine List.ext_getElem (by rw [Vector.length_toList, List.length_ofFn]) fun k hk hk' => ?_
    rw [List.getElem_ofFn, Vector.getElem_toList]
    rfl
  rw [productOf, plausibles, hlist, List.map_map, List.map_ofFn, List.prod_ofFn]
  rfl

/-- Two lists of at most 13 words, eight of one: at most 169 tuples. -/
theorem product_of_two : ∀ d a : Fin 10, (∏ i : Fin 10, if i = d ∨ i = a then 13 else 1) ≤ 1000 := by
  decide

section
variable {ws ws' : Words} {d a : Fin 10} (hvalid : ∀ i : Fin 10, (romDec ws[i]).isSome = true)
  (hnear : ∀ i : Fin 10, ws'[i] = ws[i] ∨
    ((i = d ∨ i = a) ∧ ∃ b : Fin 13, ws'[i] = ws[i] ^^^ BitVec.twoPow 13 b))
include hvalid hnear

/-- A neighbour of a valid word is invalid, so the original word is among its plausible words. -/
theorem mem_plausible_of_near (i : Fin 10) : ws[i] ∈ plausible ws'[i] := by
  rcases hnear i with heq | ⟨-, b, hflip⟩
  · rw [heq, plausible_of_valid (hvalid i)]
    exact List.mem_singleton_self _
  · have hinvalid : romDec ws'[i] = none := by
      rw [hflip]
      exact Tables.romDec_flip (Option.isSome_iff_ne_none.mp (hvalid i)) b
    rw [mem_plausible, hinvalid, if_neg (by decide)]
    refine ⟨hvalid i, b, ?_⟩
    rw [hflip, BitVec.xor_assoc, BitVec.xor_self, BitVec.xor_zero]

theorem mem_tuples_of_near : ws ∈ tuples (plausibles ws') :=
  (mem_tuples ws' ws).mpr (mem_plausible_of_near hvalid hnear)

theorem nil_notMem_of_near : [] ∉ plausibles ws' := fun hc => by
  obtain ⟨i, hi⟩ := (nil_mem_plausibles ws').mp hc
  have hmem := mem_plausible_of_near hvalid hnear i
  rw [hi] at hmem
  exact List.not_mem_nil hmem

theorem productOf_le_of_near : productOf (plausibles ws') ≤ 1000 := by
  rw [productOf_plausibles]
  refine le_trans (Finset.prod_le_prod' fun i _ => ?_) (product_of_two d a)
  rcases hnear i with heq | ⟨hi, -⟩
  · rw [heq, plausible_of_valid (hvalid i), List.length_singleton]
    split <;> decide
  · rw [if_pos hi]
    exact length_plausible_le _

/-- Damaged words are not all valid. -/
theorem not_isCode_of_near (hne : ws' ≠ ws) : ¬ IsCode ws' := fun hcode => by
  refine hne (Vector.ext fun k hk => ?_)
  rcases hnear ⟨k, hk⟩ with heq | ⟨-, b, hflip⟩
  · exact heq
  · have hsome := romDec_isSome_of_isCode hcode ⟨k, hk⟩
    rw [hflip, Tables.romDec_flip (Option.isSome_iff_ne_none.mp (hvalid ⟨k, hk⟩)) b] at hsome
    cases hsome

end

/-! ### The decoder on one damaged symbol -/

/-- Bit-flip repair of the damaged string: back to the barcode's words, or ambiguous. -/
theorem flipResult_of_damage {str str' : Vector Byte 65} {p : Fin 65} (hbar : isBarcode str)
    (hsym : allSyms str') (hsame : ∀ q : Fin 65, q ≠ p → str'[q] = str[q]) :
    flipResult 65 str' = .ok (gather layout str) ∨
      flipResult 65 str' = .error (.invalidBarcode, .ambiguous) := by
  obtain ⟨-, hcode⟩ := (isBarcode_iff str).mp hbar
  have hvalid := romDec_isSome_of_isCode hcode
  have hnear := gather_near hsame
  have hnil := nil_notMem_of_near hvalid hnear
  have hcap := productOf_le_of_near hvalid hnear
  have hgood : gather layout str ∈ goodTuples (gather layout str') :=
    List.mem_filter.mpr ⟨mem_tuples_of_near hvalid hnear, (recordOfWords_isSome _).mpr hcode⟩
  have hpos := List.length_pos_of_mem hgood
  by_cases hone : (goodTuples (gather layout str')).length = 1
  · obtain ⟨w, hw⟩ := List.length_eq_one_iff.mp hone
    rw [hw, List.mem_singleton] at hgood
    rw [hgood]
    exact .inl (flipResult_of_one hsym hnil hcap hw)
  · exact .inr (flipResult_of_ambiguous hsym hnil hcap (by omega))

theorem not_isBarcode_of_damage {str str' : Vector Byte 65} {p : Fin 65} (hbar : isBarcode str)
    (hsym : allSyms str') (hdiff : ∀ q : Fin 65, str'[q] ≠ str[q] ↔ q = p) : ¬ isBarcode str' := fun hc => by
  obtain ⟨hcsym, hcode⟩ := (isBarcode_iff str).mp hbar
  have hnear := gather_near fun q hq => not_ne_iff.mp ((hdiff q).not.mpr hq)
  refine not_isCode_of_near (romDec_isSome_of_isCode hcode) hnear (fun heq => ?_)
    ((isBarcode_iff str').mp hc).2
  have hcc : str' = str := by
    rw [← render_gather_of_allSyms hsym, heq, render_gather_of_allSyms hcsym]
  exact (hdiff p).mpr rfl (by rw [hcc])

/-- Settles O57. -/
theorem singleSymbolDamageIsNeverMiscoded : Obligations.SingleSymbolDamageIsNeverMiscoded := by
  intro s r p hf hlen hvalid hm hsym hdiff
  obtain ⟨hbar, hdecoded⟩ := decoded_of_barcode hvalid hm rfl
  have hsame : ∀ q : Fin 65, q ≠ p → (sym65 s)[q] = (barcodeOf layout r)[q] := fun q hq =>
    not_ne_iff.mp ((hdiff q).not.mpr hq)
  have hresult := flipResult_of_damage hbar hsym hsame
  rcases decodeRun_of_not_barcode (s := { s with status := .zero }) hlen hsym
    (not_isBarcode_of_damage hbar hsym hdiff) with
    ⟨w, u, hres, -, hrun, hframe⟩ | ⟨x, d, u, hres, hrec, hframe, hends⟩
  · have hres' : flipResult 65 (sym65 s) = .ok w := hres
    have hw : w = gather layout (barcodeOf layout r) := by
      rcases hresult with h | h
      · cases hres'.symm.trans h
        rfl
      · cases hres'.symm.trans h
    have hstatus := flipped_status w hframe
    have hsug : render layout w = barcodeOf layout r := by
      rw [hw, render_gather_of_allSyms ((isBarcode_iff _).mp hbar).1]
    refine ⟨_, exec_decodeSym_of_flipped hf hrun hstatus, .inl ⟨hstatus, ?_, hsug, ?_⟩⟩
    · exact (congrArg decoded hw).trans hdecoded
    · show diffOf (render layout w) (sym65 u) = _
      rw [hsug, hframe.sym65]
      exact diffOf_single fun q => ne_comm.trans (hdiff q)
  · have hres' : flipResult 65 (sym65 s) = .error (x, d) := hres
    have hd : d = .ambiguous := by
      rcases hresult with h | h
      · cases hres'.symm.trans h
      · cases hres'.symm.trans h
        rfl
    have hstatus : ∀ (x : DecReason) (y : Detail),
        (takeRaise (.decoding x y) (loseScratch u)).status = decodingStatus x.code y.code := fun x y =>
      takeRaise_decoding_of_zero (t := loseScratch u) x y hframe.status
    rcases hends with ⟨-, hrun⟩ | ⟨-, hrun⟩
    · exact ⟨_, exec_decodeSym_of_raised hf hrun, .inr (.inr ⟨hstatus _ _, hrec⟩)⟩
    · rw [hd] at hrun
      exact ⟨_, exec_decodeSym_of_raised hf hrun, .inr (.inl ⟨hstatus _ _, hrec⟩)⟩

end Sys2Proof.Proofs.Damage
end

section
/-! SUPPORT. How every command ends (spec/60_exceptions.md rule R287), and what it leaves of the
registers that only the hardware writes (spec/10_state.md rules R23, R36, R37). -/

namespace Sys2Proof.Proofs.Endings

open Sys2Proof Sys2Proof.Machine Sys2Proof.Proofs.WordsDecode Sys2Proof.Proofs.FlipRepair

set_option Elab.async false
open Sys2Proof.Proofs.LengthRepair Sys2Proof.Proofs.FullDecoder Sys2Proof.Proofs.DecodeEnds

set_option Elab.async false

/-! ### `STATUS` after a raise -/

/-- `STATUS` of a command that raised. -/
def raisedStatus : Raise → Status
  | .validation r => validationStatus r.code
  | .decoding r d => decodingStatus r.code d.code
  | .fault f => faultStatus f.code

theorem takeRaise_status {t : State} (h : t.status = .zero) (e : Raise) :
    (takeRaise e t).status = raisedStatus e := by
  cases e with
  | validation r => rw [takeRaise_validation_status, h]; rfl
  | decoding r d => rw [takeRaise_decoding_status, h]; rfl
  | fault f => rw [takeRaise_fault_status, h]; rfl

theorem raisedStatus_ne_repaired (e : Raise) : raisedStatus e ≠ repairedStatus := fun h => by
  have hrepair : (raisedStatus e).repair = 0 := by cases e <;> rfl
  rw [h] at hrepair
  exact absurd hrepair (by decide)

/-! ### What a command leaves of the registers that only the hardware writes -/

/-- The registers that the host cannot write, and the model's own fields, are as they were. -/
structure Kept (s t : State) : Prop where
  status : t.status = s.status
  host : t.host = s.host
  rdata : t.rdata = s.rdata
  sug : t.sug = s.sug
  diff : t.diff = s.diff
  repinfo : t.repinfo = s.repinfo

/-- What holds after every command: a legal `STATUS`, and each of the other registers of the invariant
either as it was or legal. -/
structure Served (s t : State) : Prop where
  status : t.status = .zero ∨ t.status = repairedStatus ∨ ∃ e, t.status = raisedStatus e
  host : t.host = s.host
  rdata : t.rdata = s.rdata
  repinfo : t.repinfo = s.repinfo ∨ legalRepinfo t.repinfo
  suggestion : (t.sug = s.sug ∧ t.diff = s.diff) ∨ legalSuggestion t
  repaired : t.status = repairedStatus → allSyms t.sug

/-- Pseudocode that ends, from a cleared `STATUS`, in one of these ways. -/
def EndsIn (f : State → Run) (l : List Status) : Prop :=
  ∀ s, s.status = .zero → (finish (f s)).status ∈ l ∧ Served s (finish (f s))

section
variable {f : State → Run} {s t : State} {l : List Status}

/-- A run that ends well and keeps the registers of the invariant. -/
theorem ends_ok (hs : s.status = .zero) (h : f s = .ok t) (hl : Status.zero ∈ l)
    (hk : Kept s t := by constructor <;> rfl) :
    (finish (f s)).status ∈ l ∧ Served s (finish (f s)) := by
  have hst : t.status = .zero := hk.status.trans hs
  rw [h]
  refine ⟨hst ▸ hl, .inl hst, hk.host, hk.rdata, .inl hk.repinfo, .inl ⟨hk.sug, hk.diff⟩, fun hc => ?_⟩
  exact absurd (hst.symm.trans hc) (by decide)

/-- A run that raises and keeps the registers of the invariant. -/
theorem ends_raised {e : Raise} (hs : s.status = .zero) (h : f s = .raised e t)
    (hl : raisedStatus e ∈ l) (hk : Kept s t := by constructor <;> rfl) :
    (finish (f s)).status ∈ l ∧ Served s (finish (f s)) := by
  have hst := takeRaise_status (hk.status.trans hs) e
  rw [h]
  refine ⟨hst ▸ hl, .inr (.inr ⟨e, hst⟩), (takeRaise_host e t).trans hk.host,
    (takeRaise_rdata e t).trans hk.rdata, .inl ((takeRaise_repinfo e t).trans hk.repinfo),
    .inl ⟨(takeRaise_sug e t).trans hk.sug, (takeRaise_diff e t).trans hk.diff⟩, fun hc => ?_⟩
  exact absurd (hst.symm.trans hc) (raisedStatus_ne_repaired e)

end

/-! ### The commands that are no decoder -/

theorem validationStatus_mem (v : ValReason) :
    raisedStatus (.validation v) ∈ Status.zero ::
      [validationStatus 1, validationStatus 2, validationStatus 3, validationStatus 4, validationStatus 5,
        validationStatus 6, validationStatus 7, validationStatus 8, validationStatus 9,
        validationStatus 10] := by
  cases v <;> decide

theorem bnLdlo_ends (v : Nat) : EndsIn (bnLdlo v) [.zero, faultStatus 2] := fun s hs => by
  rcases bnLdlo_cases v s with ⟨-, n, h, -⟩ | ⟨-, h⟩
  · exact ends_ok (t := { s with n := n }) hs h (by decide)
  · exact ends_raised hs h (by decide)

theorem bnIszero_ends : EndsIn bnIszero [.zero] := fun s hs =>
  ends_ok (t := { s with res := _ }) hs rfl (by decide)

theorem bnAdd_ends (k : Int) : EndsIn (bnAdd k) [.zero, faultStatus 3] := fun s hs => by
  rcases bnAdd_cases k s with ⟨-, -, n, h, -⟩ | ⟨-, h⟩
  · exact ends_ok (t := { s with n := n }) hs h (by decide)
  · exact ends_raised (t := loseLimbs s) hs h (by decide)

theorem bnMuladd_ends (m a : Nat) : EndsIn (bnMuladd m a) [.zero, faultStatus 3] := fun s hs => by
  rcases bnMuladd_cases m a s with ⟨-, n, h, -⟩ | ⟨-, h⟩
  · exact ends_ok (t := { s with n := n }) hs h (by decide)
  · exact ends_raised (t := loseLimbs s) hs h (by decide)

theorem bnDivmod_ends (d : Nat) : EndsIn (bnDivmod d) [.zero, faultStatus 4] := fun s hs => by
  rcases bnDivmod_cases d s with ⟨-, n, h, -⟩ | ⟨-, h⟩
  · exact ends_ok (t := { s with n := n, res := _ }) hs h (by decide)
  · exact ends_raised hs h (by decide)

theorem fcsChk_ends : EndsIn fcsChk [.zero, decodingStatus 4 4] := fun s hs => by
  rcases fcsChk_cases s with ⟨-, h⟩ | ⟨-, h⟩
  · exact ends_ok (t := { s with fcs := fcsOf s.n }) hs h (by decide)
  · exact ends_raised (t := { s with fcs := fcsOf s.n }) hs h (by decide)

theorem tblEnc_ends (i : Nat) : EndsIn (tblEnc i) [.zero, faultStatus 2] := fun s hs => by
  by_cases hi : indexLegal i = true
  · exact ends_ok (t := { s with res := _ }) hs (if_pos hi) (by decide)
  · exact ends_raised hs (if_neg hi) (by decide)

theorem tblDec_ends (w : Nat) : EndsIn (tblDec w) [.zero, faultStatus 2] := fun s hs => by
  by_cases hw : wordLegal w = true
  · exact ends_ok (t := { s with res := _ }) hs (if_pos hw) (by decide)
  · exact ends_raised hs (if_neg hw) (by decide)

theorem cwSplit_ends : EndsIn cwSplit [.zero, faultStatus 2] := fun s hs => by
  rcases lt_or_ge (val s.n) splitBound with hlt | hge
  · obtain ⟨n, res, cw, h, -⟩ := Chain.cwSplit_below hlt
    exact ends_ok (t := { s with n := n, res := res, cw := cw }) hs h (by decide)
  · obtain ⟨n, res, cw, h, -⟩ := Chain.cwSplit_above hge
    exact ends_raised (t := { s with n := n, res := res, cw := cw }) hs h (by decide)

theorem cwMap_ends : EndsIn cwMap [.zero, faultStatus 2] := fun s hs => by
  rcases cwMap_cases s with ⟨-, h⟩ | ⟨-, h⟩
  · exact ends_ok (t := { s with w := _ }) hs h (by decide)
  · exact ends_raised hs h (by decide)

theorem cwUnmap_ends :
    EndsIn cwUnmap [.zero, decodingStatus 4 1, decodingStatus 4 2, decodingStatus 4 3] := fun s hs => by
  rcases cwUnmap_cases s with ⟨-, h⟩ | ⟨-, -, h⟩ | ⟨-, -, -, -, h⟩ | ⟨-, -, -, -, h⟩
  · exact ends_raised hs h (by decide)
  · exact ends_raised hs h (by decide)
  · exact ends_raised hs h (by decide)
  · exact ends_ok (t := { s with cw := _, fcsr := _ }) hs h (by decide)

theorem cwJoin_ends : EndsIn cwJoin [.zero] := fun s hs => by
  obtain ⟨⟨n, h, -⟩, -⟩ := Chain.setsN_cwJoin s
  exact ends_ok (t := { s with n := n }) hs h (by decide)

theorem symParse_ends :
    EndsIn (symParse layout) [.zero, decodingStatus 1 0, decodingStatus 2 0] := fun s hs => by
  rcases symParse_cases layout s with ⟨-, -, h⟩ | ⟨-, h⟩ | ⟨-, -, h⟩
  · exact ends_ok (t := { s with w := _ }) hs h (by decide)
  · exact ends_raised hs h (by decide)
  · exact ends_raised hs h (by decide)

theorem payValidate_ends : EndsIn payValidate (endings .payValidate) := fun s hs => by
  rcases payValidate_cases s with ⟨-, h⟩ | ⟨e, -, h⟩
  · exact ends_ok hs h List.mem_cons_self
  · exact ends_raised hs h (validationStatus_mem e)

theorem payPack_ends : EndsIn payPack (endings .payPack) := fun s hs => by
  by_cases hv : validRecord s.record
  · obtain ⟨⟨n, h, -⟩, -⟩ := Pack.payPack_value hv
    exact ends_ok (t := { s with n := n }) hs h List.mem_cons_self
  · obtain ⟨e, h, -⟩ := Pack.payPack_of_invalid hv
    exact ends_raised hs h (validationStatus_mem e)

theorem encodeRun_ends : EndsIn (encodeRun layout) (endings .encodeRec) := fun s hs => by
  by_cases hv : validRecord s.record
  · obtain ⟨n, res, cw, h⟩ := Barcode.encodeRun_of_valid layout hv
    exact ends_ok (t := { s with n := n, res := res, fcs := _, cw := cw, w := _, sym := _, len := 65 })
      hs h List.mem_cons_self
  · obtain ⟨e, h, -⟩ := Pack.payPack_of_invalid hv
    have hrun : encodeRun layout s = .raised (.validation e) s := by rw [encodeRun, h, Run.andThen_raised]
    exact ends_raised hs hrun (validationStatus_mem e)

theorem payUnpack_ends : EndsIn payUnpack [.zero, decodingStatus 4 5] := fun s hs => by
  rcases le_or_gt (val s.n / (5 * 10 ^ 19)) lastRouting with hle | hgt
  · exact ends_ok (t := UnpackRun.unpacked s) hs (UnpackRun.payUnpack_of_le hle) (by decide)
  · obtain ⟨n, -, h⟩ := UnpackRun.payUnpack_of_gt hgt
    exact ends_raised (t := { s with n := n, res := 0, track := _, route := _ }) hs h
      (by decide)

/-! ### The decoders -/

/-- A decoder's failure: no suggestion and no position, the rest as `Kept` would have it. -/
theorem ends_cleared {f : State → Run} {s t : State} {l : List Status} {e : Raise}
    (h : finish (f s) = takeRaise e t) (hl : raisedStatus e ∈ l) (hst : t.status = .zero)
    (hhost : t.host = s.host) (hrdata : t.rdata = s.rdata)
    (hrep : t.repinfo = s.repinfo ∨ legalRepinfo t.repinfo) (hsug : t.sug = Vector.replicate 65 0)
    (hdiff : t.diff = 0) : (finish (f s)).status ∈ l ∧ Served s (finish (f s)) := by
  have hstatus := takeRaise_status hst e
  rw [h]
  refine ⟨hstatus ▸ hl, .inr (.inr ⟨e, hstatus⟩), (takeRaise_host e t).trans hhost,
    (takeRaise_rdata e t).trans hrdata, ?_, .inr (.inl ⟨?_, ?_⟩), fun hc => ?_⟩
  · rw [takeRaise_repinfo]
    exact hrep
  · rw [takeRaise_sug, hsug]
  · rw [takeRaise_diff, hdiff]
  · exact absurd (hstatus.symm.trans hc) (raisedStatus_ne_repaired e)

/-- A decoder's success without a suggestion. -/
theorem ends_clean {f : State → Run} {s t : State} {l : List Status} (h : finish (f s) = t)
    (hl : Status.zero ∈ l) (hst : t.status = .zero) (hhost : t.host = s.host) (hrdata : t.rdata = s.rdata)
    (hrep : t.repinfo = s.repinfo ∨ legalRepinfo t.repinfo) (hsug : t.sug = Vector.replicate 65 0)
    (hdiff : t.diff = 0) : (finish (f s)).status ∈ l ∧ Served s (finish (f s)) := by
  rw [h]
  exact ⟨hst ▸ hl, .inl hst, hhost, hrdata, hrep, .inr (.inl ⟨hsug, hdiff⟩),
    fun hc => absurd (hst.symm.trans hc) (by decide)⟩

/-- A repair, with its suggestion. -/
theorem ends_repaired {f : State → Run} {s t : State} {l : List Status} (h : finish (f s) = t)
    (hl : repairedStatus ∈ l) (hst : t.status = repairedStatus) (hhost : t.host = s.host)
    (hrdata : t.rdata = s.rdata) (hrep : t.repinfo = s.repinfo ∨ legalRepinfo t.repinfo)
    (hsug : allSyms t.sug) : (finish (f s)).status ∈ l ∧ Served s (finish (f s)) := by
  rw [h]
  exact ⟨hst ▸ hl, .inr (.inl hst), hhost, hrdata, hrep, .inr (.inr hsug), fun _ => hsug⟩

/-- The details of steps 2 to 12 are among the endings of `DEC.STRICT`. -/
theorem wordDetails_mem {d : Detail} (h : d ∈ wordDetails) :
    raisedStatus (.decoding .invalidBarcode d) ∈ endings .decStrict := by
  cases d <;> revert h <;> decide

theorem strictRaise_mem {s : State} {e : Raise} (h : StrictRaise s e) :
    raisedStatus e ∈ endings .decStrict := by
  rcases h with ⟨-, rfl⟩ | ⟨-, -, rfl⟩ | ⟨-, -, d, hd, rfl⟩
  · decide
  · decide
  · exact wordDetails_mem hd

theorem decStrict_ends : EndsIn (decStrict layout) (endings .decStrict) := fun s hs => by
  rcases decStrict_cases s with ⟨-, -, t, h, -, hframe⟩ | ⟨-, e, t, hraise, h, -, hframe⟩
  · exact ends_clean (congrArg finish h) (by decide) (hframe.status.trans hs) hframe.host hframe.rdata
      (.inr (.inl hframe.repinfo)) hframe.sug hframe.diff
  · exact ends_cleared (congrArg finish h) (strictRaise_mem hraise) (hframe.status.trans hs) hframe.host
      hframe.rdata (.inr (.inl hframe.repinfo)) hframe.sug hframe.diff

/-- What `REP.LEN` runs (rule R255, log entry 17). -/
def repLenBody (s : State) : Run :=
  (repLen layout s).mapState (if lenRepairScans s then loseScratchButRes else loseScratch)

theorem legalRepinfo_of_candidate {s : State} {j : Nat} (hj : j < candidateCount s) :
    legalRepinfo (BitVec.ofNat 9 ((if s.len = 64 then 128 else 256) + j)) := by
  rw [candidateCount] at hj
  split_ifs at hj ⊢
  · exact .inr (.inl ⟨j, by omega, rfl⟩)
  · exact .inr (.inr ⟨j, by omega, rfl⟩)

theorem repLen_ends : EndsIn repLenBody (endings .repLen) := fun s hs => by
  have hlose : ∀ {b : Bool} {e : Raise} {t : State} {l : List Status}, repLen layout s = .raised e t →
      lenRepairScans s = b → raisedStatus e ∈ l → t.status = .zero → t.host = s.host →
      t.rdata = s.rdata → t.repinfo = 0 → t.sug = Vector.replicate 65 0 → t.diff = 0 →
      (finish (repLenBody s)).status ∈ l ∧ Served s (finish (repLenBody s)) := by
    intro b e t l hrun hb hl hst hhost hrdata hrep hsug hdiff
    cases b
    · refine ends_cleared (t := loseScratch t) ?_ hl hst hhost hrdata (.inr (.inl hrep)) hsug hdiff
      rw [repLenBody, hrun, hb]
      rfl
    · refine ends_cleared (t := loseScratchButRes t) ?_ hl hst hhost hrdata (.inr (.inl hrep)) hsug hdiff
      rw [repLenBody, hrun, hb]
      rfl
  rcases repLen_cases layout s with
    ⟨-, -, h⟩ | ⟨-, -, h⟩ | ⟨-, -, -, h⟩ | ⟨hlen, hall, -⟩
  · exact hlose h rfl (by decide) hs rfl rfl rfl rfl rfl
  · exact hlose h rfl (by decide) hs rfl rfl rfl rfl rfl
  · exact hlose h rfl (by decide) hs rfl rfl rfl rfl rfl
  · have hsym := (Symbols.allSymbols_iff_inputSymbols s).mp hall
    obtain ⟨b, j, hbest⟩ : ∃ b j, bestCandidate layout (symbols s) = (b, j) := ⟨_, _, rfl⟩
    have hj := (bestCandidate_bestBelow hlen).1
    rw [hbest] at hj
    rcases repLen_scan hlen hsym hbest with ⟨-, h⟩ | ⟨-, h⟩
    · exact hlose h rfl (by decide) hs rfl rfl rfl rfl rfl
    · refine ends_clean (t := loseScratchButRes (lenRepaired s b j)) ?_ (by decide) hs rfl rfl
        (.inr (legalRepinfo_of_candidate hj)) rfl rfl
      rw [repLenBody, h, lenRepairScans_of_input hlen hsym]
      rfl

/-- The errors of bit-flip repair (rule R262). -/
theorem flipResult_error_mem {len : BitVec 7} {c : Vector Byte 65} {r : DecReason} {d : Detail}
    (h : flipResult len c = .error (r, d)) :
    (r, d) ∈ [(DecReason.length, Detail.none), (.invalidSymbol, .none), (.invalidBarcode, .noPlausible),
      (.invalidBarcode, .tooMany), (.invalidBarcode, .noSuccess), (.invalidBarcode, .ambiguous)] := by
  unfold flipResult at h
  split_ifs at h <;> cases h <;> decide

theorem repFlip_error_mem {r : DecReason} {d : Detail}
    (h : (r, d) ∈ [(DecReason.length, Detail.none), (.invalidSymbol, .none), (.invalidBarcode, .noPlausible),
      (.invalidBarcode, .tooMany), (.invalidBarcode, .noSuccess), (.invalidBarcode, .ambiguous)]) :
    raisedStatus (.decoding r d) ∈ endings .repFlip := by
  simp only [List.mem_cons, List.not_mem_nil, or_false, Prod.mk.injEq] at h
  rcases h with ⟨rfl, rfl⟩ | ⟨rfl, rfl⟩ | ⟨rfl, rfl⟩ | ⟨rfl, rfl⟩ | ⟨rfl, rfl⟩ | ⟨rfl, rfl⟩ <;> decide

theorem flipped_repaired {s u : State} {w : Words} (hs : s.status = .zero) (hu : u.status = s.status) :
    (loseScratch (flipped w u)).status = repairedStatus := by
  show ({ u.status with repair := 1 } : Status) = repairedStatus
  rw [hu, hs]
  rfl

theorem repFlip_endsIn :
    EndsIn (fun s => (repFlip layout s).mapState loseScratch) (endings .repFlip) := fun s hs => by
  rcases repFlip_ends s with ⟨r, d, u, hres, h, -, hframe⟩ | ⟨w, u, -, -, h, hframe⟩
  · exact ends_cleared (f := fun s => (repFlip layout s).mapState loseScratch) (t := loseScratch u)
      (congrArg (fun run => finish (run.mapState loseScratch)) h)
      (repFlip_error_mem (flipResult_error_mem hres)) (hframe.status.trans hs) hframe.host hframe.rdata
      (.inl hframe.repinfo) hframe.sug hframe.diff
  · exact ends_repaired (f := fun s => (repFlip layout s).mapState loseScratch)
      (t := loseScratch (flipped w u)) (congrArg (fun run => finish (run.mapState loseScratch)) h) (by decide)
      (flipped_repaired hs hframe.status) hframe.host hframe.rdata (.inl hframe.repinfo)
      (Symbols.allSyms_render layout w)

theorem decOrient_endsIn :
    EndsIn (fun s => (decOrient layout s).mapState loseScratchButRes) (endings .decOrient) :=
  fun s hs => by
  rcases decOrient_ends s with ⟨-, -, u, h, -, -, hframe⟩ | ⟨-, u, h, -, -, hframe⟩
  · exact ends_cleared (f := fun s => (decOrient layout s).mapState loseScratchButRes)
      (e := .decoding .upsideDown .none)
      (t := loseScratchButRes u)
      (congrArg (fun run => finish (run.mapState loseScratchButRes)) h) (by decide)
      (hframe.status.trans hs) hframe.host hframe.rdata (.inr (.inl hframe.repinfo)) hframe.sug hframe.diff
  · exact ends_clean (f := fun s => (decOrient layout s).mapState loseScratchButRes)
      (t := loseScratchButRes u)
      (congrArg (fun run => finish (run.mapState loseScratchButRes)) h) (by decide)
      (hframe.status.trans hs) hframe.host hframe.rdata (.inr (.inl hframe.repinfo)) hframe.sug hframe.diff

/-! ### `DECODE` -/

/-- The reports of `DECODE` on an unacceptable input, and its own re-reports of a repair's error. -/
theorem decode_error_mem {r : DecReason} {d : Detail}
    (h : (r, d) ∈ [(DecReason.length, Detail.none), (.invalidSymbol, .none), (.invalidBarcode, .noPlausible),
      (.invalidBarcode, .tooMany), (.invalidBarcode, .noSuccess), (.invalidBarcode, .ambiguous)]) :
    raisedStatus (.decoding .length d) ∈ endings .decodeSym ∧
      (r = .invalidBarcode → raisedStatus (.decoding .invalidBarcode d) ∈ endings .decodeSym) := by
  simp only [List.mem_cons, List.not_mem_nil, or_false, Prod.mk.injEq] at h
  rcases h with ⟨rfl, rfl⟩ | ⟨rfl, rfl⟩ | ⟨rfl, rfl⟩ | ⟨rfl, rfl⟩ | ⟨rfl, rfl⟩ | ⟨rfl, rfl⟩ <;> decide

section
variable {s u : State}

/-- A `DECODE` that raised from cleared registers. -/
theorem decode_ends_raised {e : Raise} (h : decodeRun layout s = .raised e u)
    (hl : raisedStatus e ∈ endings .decodeSym) (hst : u.status = .zero) (hhost : u.host = s.host)
    (hrdata : u.rdata = s.rdata) (hrep : legalRepinfo u.repinfo) (hsug : u.sug = Vector.replicate 65 0)
    (hdiff : u.diff = 0) :
    (finish (decodeScratch (decodeRun layout s))).status ∈ endings .decodeSym ∧
      Served s (finish (decodeScratch (decodeRun layout s))) :=
  ends_cleared (f := fun s => decodeScratch (decodeRun layout s)) (t := loseScratch u)
    (congrArg (fun run => finish (decodeScratch run)) h) hl hst hhost hrdata (.inr hrep) hsug hdiff

/-- A `DECODE` that repaired. -/
theorem decode_ends_repaired {w : Words} (h : decodeRun layout s = .ok (flipped w u))
    (hs : s.status = .zero) (hst : u.status = s.status) (hhost : u.host = s.host)
    (hrdata : u.rdata = s.rdata) (hrep : legalRepinfo u.repinfo) :
    (finish (decodeScratch (decodeRun layout s))).status ∈ endings .decodeSym ∧
      Served s (finish (decodeScratch (decodeRun layout s))) := by
  have hstatus := flipped_repaired (w := w) hs hst
  refine ends_repaired (f := fun s => decodeScratch (decodeRun layout s)) (t := loseScratch (flipped w u))
    ?_ (by decide) hstatus hhost hrdata (.inr hrep) (Symbols.allSyms_render layout w)
  have hne : ¬ (flipped w u).status.repair = 0 := by
    rw [show (flipped w u).status = repairedStatus from hstatus]
    decide
  rw [h, decodeScratch, if_neg hne]
  rfl

end

theorem decode_endsIn :
    EndsIn (fun s => decodeScratch (decodeRun layout s)) (endings .decodeSym) := fun s hs => by
  by_cases hlens : s.len ≠ 64 ∧ s.len ≠ 65 ∧ s.len ≠ 66
  · exact decode_ends_raised (decodeRun_of_length hlens.1 hlens.2.1 hlens.2.2) (by decide) hs rfl rfl
      (.inl rfl) rfl rfl
  have hlen : s.len = 64 ∨ s.len = 65 ∨ s.len = 66 := by tauto
  by_cases hinput : inputSymbols s
  case neg =>
    exact decode_ends_raised (decodeRun_of_symbol hlen hinput) (by decide) hs rfl rfl (.inl rfl) rfl rfl
  by_cases h65 : s.len = 65
  · have hsym : allSyms (sym65 s) := by
      have hall := (Symbols.allSymbols_iff_inputSymbols s).mpr hinput
      rw [h65] at hall
      exact (Symbols.allSymbols_iff_allSyms s).mp hall
    by_cases hbar : isBarcode (sym65 s)
    · rcases decStrict_cases s with ⟨-, -, t, hrun, -, hframe⟩ | ⟨hnot, -⟩
      · have hst : t.status = .zero := hframe.status.trans hs
        have hclean := StrictDecoder.decodeRun_of_strict h65 hsym hrun
        refine ends_clean (f := fun s => decodeScratch (decodeRun layout s)) (t := t) ?_ (by decide) hst
          hframe.host hframe.rdata (.inr (.inl hframe.repinfo)) hframe.sug hframe.diff
        show finish (decodeScratch (decodeRun layout s)) = t
        rw [hclean, decodeScratch, hst]
        rfl
      · exact absurd ⟨h65, hbar⟩ hnot
    · rcases decodeRun_of_not_barcode h65 hsym hbar with
        ⟨w, u, -, -, hrun, hframe⟩ | ⟨r, d, u, hres, -, hframe, ⟨-, hrun⟩ | ⟨-, hrun⟩⟩
      · exact decode_ends_repaired hrun hs hframe.status hframe.host hframe.rdata (.inl hframe.repinfo)
      · exact decode_ends_raised hrun (by decide) (hframe.status.trans hs) hframe.host hframe.rdata
          (.inl hframe.repinfo) hframe.sug hframe.diff
      · exact decode_ends_raised hrun
          ((decode_error_mem (flipResult_error_mem hres)).2 (flipResult_error_reason hsym hres))
          (hframe.status.trans hs) hframe.host hframe.rdata (.inl hframe.repinfo) hframe.sug hframe.diff
  · have hlen' : s.len = 64 ∨ s.len = 66 := by tauto
    have hj := (bestCandidate_bestBelow hlen').1
    have hrepinfo := legalRepinfo_of_candidate hj
    rcases decodeRun_of_lengths hlen' hinput rfl with
      ⟨-, hrun⟩ | ⟨-, r, d, u, hres, hrun, -, hframe⟩ | ⟨-, w, u, -, -, hrun, hframe⟩
    · exact decode_ends_raised hrun (by decide) hs rfl rfl (.inl rfl) rfl rfl
    · exact decode_ends_raised hrun (decode_error_mem (flipResult_error_mem hres)).1
        (hframe.status.trans hs) hframe.host hframe.rdata (hframe.repinfo.symm ▸ hrepinfo) hframe.sug
        hframe.diff
    · exact decode_ends_repaired hrun hs hframe.status hframe.host hframe.rdata
        (hframe.repinfo.symm ▸ hrepinfo)

end Sys2Proof.Proofs.Endings
end

section
/-! SUPPORT. The whole machine: the table of endings (spec/60_exceptions.md rule R287), and the invariant
of the registers that only the hardware writes (spec/10_state.md sections 3 and 5). -/

namespace Sys2Proof.Proofs.WholeMachine

open Sys2Proof Sys2Proof.Machine Sys2Proof.Proofs.Endings

set_option Elab.async false

/-! ### Every command -/

/-- Every command runs pseudocode that ends as the table says. -/
theorem exec_endsIn (i : Instr) :
    ∃ f : State → Run, (∀ s, exec i s = command f s) ∧ EndsIn f (endings i) := by
  cases i with
  | nop => exact ⟨.ok, fun _ => rfl, fun s hs => ends_ok (t := s) hs rfl (by decide)⟩
  | bnClr =>
    exact ⟨bnClr, fun _ => rfl, fun s hs =>
      ends_ok (t := { s with n := Vector.replicate 10 0 }) hs rfl (by decide)⟩
  | bnLdlo v => exact ⟨bnLdlo v, fun _ => rfl, bnLdlo_ends v⟩
  | bnIszero => exact ⟨bnIszero, fun _ => rfl, bnIszero_ends⟩
  | bnAdd k => exact ⟨bnAdd k, fun _ => rfl, bnAdd_ends k⟩
  | bnMuladd m a => exact ⟨bnMuladd m a, fun _ => rfl, bnMuladd_ends m a⟩
  | bnDivmod d => exact ⟨bnDivmod d, fun _ => rfl, bnDivmod_ends d⟩
  | fcsCalc =>
    exact ⟨fcsCalc, fun _ => rfl, fun s hs =>
      ends_ok (t := { s with fcs := fcsOf s.n }) hs rfl (by decide)⟩
  | fcsChk => exact ⟨fcsChk, fun _ => rfl, fcsChk_ends⟩
  | tblEnc k => exact ⟨tblEnc k, fun _ => rfl, tblEnc_ends k⟩
  | tblDec w => exact ⟨tblDec w, fun _ => rfl, tblDec_ends w⟩
  | cwSplit => exact ⟨cwSplit, fun _ => rfl, cwSplit_ends⟩
  | cwMap => exact ⟨cwMap, fun _ => rfl, cwMap_ends⟩
  | cwUnmap => exact ⟨cwUnmap, fun _ => rfl, cwUnmap_ends⟩
  | cwJoin => exact ⟨cwJoin, fun _ => rfl, cwJoin_ends⟩
  | symEmit =>
    exact ⟨symEmit layout, fun _ => rfl, fun s hs =>
      ends_ok (t := { s with sym := bufferOf (render layout s.w), len := 65 }) hs rfl (by decide)⟩
  | symParse => exact ⟨symParse layout, fun _ => rfl, symParse_ends⟩
  | symFlip =>
    exact ⟨symFlip, fun _ => rfl, fun s hs =>
      ends_ok (t := { s with sym := FullDecoder.flipSym s.len s.sym }) hs (FullDecoder.symFlip_eq s)
        (by decide)⟩
  | payValidate => exact ⟨payValidate, fun _ => rfl, payValidate_ends⟩
  | payPack => exact ⟨payPack, fun _ => rfl, payPack_ends⟩
  | payUnpack => exact ⟨payUnpack, fun _ => rfl, payUnpack_ends⟩
  | encodeRec => exact ⟨encodeRun layout, fun _ => rfl, encodeRun_ends⟩
  | decodeSym => exact ⟨fun s => decodeScratch (decodeRun layout s), fun _ => rfl, decode_endsIn⟩
  | decStrict => exact ⟨decStrict layout, fun _ => rfl, decStrict_ends⟩
  | repLen => exact ⟨repLenBody, fun _ => rfl, repLen_ends⟩
  | repFlip => exact ⟨fun s => (repFlip layout s).mapState loseScratch, fun _ => rfl, repFlip_endsIn⟩
  | decOrient =>
    exact ⟨fun s => (decOrient layout s).mapState loseScratchButRes, fun _ => rfl, decOrient_endsIn⟩

/-- How a command ends on a core that is not faulted. -/
theorem exec_served (i : Instr) {s : State} (hf : s.status.fault = 0) :
    ∃ t, exec i s = .next t ∧ t.status ∈ endings i ∧ Served s t := by
  obtain ⟨f, hexec, hends⟩ := exec_endsIn i
  obtain ⟨hmem, hserved⟩ := hends { s with status := .zero } rfl
  refine ⟨_, (hexec s).trans (command_of_fault_zero f s hf), hmem, ?_⟩
  exact ⟨hserved.status, hserved.host, hserved.rdata, hserved.repinfo, hserved.suggestion,
    hserved.repaired⟩

/-- Settles O58. -/
theorem commandsEndAsTabled : Obligations.CommandsEndAsTabled := by
  intro i s hf
  obtain ⟨t, hexec, hmem, hserved⟩ := exec_served i hf
  exact ⟨t, hexec, hmem, hserved.host, hserved.rdata⟩

/-! ### The invariant -/

theorem legalStatus_raisedStatus (e : Raise) : legalStatus (raisedStatus e) := by
  cases e with
  | validation r => exact .inr (.inr (.inl ⟨r.code, by cases r <;> decide, by cases r <;> decide, rfl⟩))
  | decoding r d =>
    exact .inr (.inr (.inr (.inl ⟨r.code, d.code, by cases r <;> decide, by cases r <;> decide,
      by cases d <;> decide, rfl⟩)))
  | fault f => exact .inr (.inr (.inr (.inr ⟨f.code, by cases f <;> decide, by cases f <;> decide, rfl⟩)))

/-- A `STATUS` with `REPAIR` 1 that a command leaves is that of a repair. -/
theorem eq_repaired_of_repair {t : Status}
    (h : t = .zero ∨ t = repairedStatus ∨ ∃ e, t = raisedStatus e) (hr : t.repair = 1) :
    t = repairedStatus := by
  rcases h with rfl | h | ⟨e, rfl⟩
  · exact absurd hr (by decide)
  · exact h
  · have hzero : (raisedStatus e).repair = 0 := by cases e <;> rfl
    rw [hzero] at hr
    exact absurd hr (by decide)

/-- The invariant speaks of four registers only. -/
theorem inv_congr {s t : State} (hstatus : t.status = s.status) (hrep : t.repinfo = s.repinfo)
    (hsug : t.sug = s.sug) (hdiff : t.diff = s.diff) (h : Inv s) : Inv t := by
  rw [Inv, legalSuggestion] at h ⊢
  rwa [hstatus, hrep, hsug, hdiff]

/-- A command that is run keeps the invariant. -/
theorem inv_of_served {s t : State} (h : Inv s) (hserved : Served s t) : Inv t := by
  obtain ⟨-, hrep, hsug, -⟩ := h
  refine ⟨?_, ?_, ?_, fun hr => hserved.repaired (eq_repaired_of_repair hserved.status hr)⟩
  · rcases hserved.status with hst | hst | ⟨e, hst⟩
    · exact .inl hst
    · exact .inr (.inl hst)
    · exact hst ▸ legalStatus_raisedStatus e
  · rcases hserved.repinfo with heq | hlegal
    · exact heq ▸ hrep
    · exact hlegal
  · rcases hserved.suggestion with ⟨hs, hd⟩ | hlegal
    · rw [legalSuggestion] at hsug ⊢
      rwa [hs, hd]
    · exact hlegal

/-- A command keeps the invariant, whether the core is faulted or not. -/
theorem exec_keeps_inv {i : Instr} {s t : State} (h : Inv s) (ht : exec i s = .next t) : Inv t := by
  by_cases hf : s.status.fault = 0
  · obtain ⟨u, hexec, -, hserved⟩ := exec_served i hf
    cases hexec.symm.trans ht
    exact inv_of_served h hserved
  · cases (Faulted.exec_of_fault i hf).symm.trans ht
    exact h

theorem illegalCommand_keeps_inv {s t : State} (h : Inv s) (ht : illegalCommand s = .next t) : Inv t := by
  by_cases hf : s.status.fault = 0
  · have hends := ends_raised (f := fun s => .raised (.fault .illegalCmd) s)
      (s := { s with status := .zero }) (t := { s with status := .zero })
      (l := [raisedStatus (.fault .illegalCmd)]) rfl rfl List.mem_cons_self
    have hrun : illegalCommand s = _ := command_of_fault_zero _ s hf
    cases hrun.symm.trans ht
    exact inv_of_served (s := s) h ⟨hends.2.status, hends.2.host, hends.2.rdata, hends.2.repinfo,
      hends.2.suggestion, hends.2.repaired⟩
  · cases (Faulted.illegalCommand_of_fault hf).symm.trans ht
    exact h

/-- A host write reaches none of the registers of the invariant. -/
theorem writeElem_keeps_inv {s : State} (h : Inv s) (e : RegElem) (v : Nat) : Inv (writeElem e v s) := by
  cases e <;> exact inv_congr (s := s) rfl rfl rfl rfl h

/-- Settles O59: an idle step, a host read, a reset, a host write, a command and an illegal word. -/
theorem everyStepKeepsTheInvariant : Obligations.EveryStepKeepsTheInvariant := by
  intro s t h ht
  have hrest : ∀ rest, Inv { s with host := rest } := fun _ => inv_congr (s := s) rfl rfl rfl rfl h
  rcases step_cases s with ⟨-, hs⟩ | ⟨idx, rest, -, hs⟩ | ⟨rest, -, hs⟩ | ⟨idx, v, rest, -, -, hs⟩ |
    ⟨idx, v, rest, i, -, -, -, hs⟩ | ⟨idx, v, rest, -, -, -, hs⟩
  · cases hs.symm.trans ht
    exact h
  · cases hs.symm.trans ht
    exact inv_congr (s := s) rfl rfl rfl rfl h
  · cases hs.symm.trans ht
    exact inv_congr (s := State.reset) rfl rfl rfl rfl Port.resetHasTheInvariant
  · cases hs.symm.trans ht
    exact writeElem_keeps_inv (hrest rest) _ v
  · exact exec_keeps_inv (hrest rest) (hs.symm.trans ht)
  · exact illegalCommand_keeps_inv (hrest rest) (hs.symm.trans ht)

end Sys2Proof.Proofs.WholeMachine
end

section
/-! SUPPORT. The reset event (spec/70_reset_and_hazards.md rules R320, R321): what the host reads after
it, and the step that performs it. -/

namespace Sys2Proof.Proofs.Reset

open Sys2Proof Sys2Proof.Machine

/-- Every entry of a register array is 0 after reset. -/
theorem setWidth_replicate_zero {w n : Nat} (i : Fin n) :
    ((Vector.replicate n (0 : BitVec w))[i]).setWidth 65 = 0 := by
  rw [Fin.getElem_fin, Vector.getElem_replicate]
  exact BitVec.setWidth_zero ..

/-- Every record field is absent after reset. -/
theorem field_absent (f : FieldName) : Record.absent.field f = .absent := by cases f <;> rfl

/-- Every element of the register space reads 0 after reset (rule R321). -/
theorem readElem_reset (e : RegElem) : readElem e State.reset = 0 := by
  cases e with
  | cmd | status | res | fcs | fcsr | len | rpos | repinfo | diff | unmapped => rfl
  | n i | cw i | w i | track i | route i | sym i | sug i => exact setWidth_replicate_zero i
  | recLen f => exact congrArg (fun x : RecField => x.len.setWidth 65) (field_absent f)
  | recCh f k =>
    calc readElem (.recCh f k) State.reset
        = RecField.absent.ch[k].setWidth 65 :=
          congrArg (fun x : RecField => x.ch[k].setWidth 65) (field_absent f)
      _ = 0 := setWidth_replicate_zero k

/-- A step whose action is the reset event. -/
theorem step_reset {s : State} {rest : List HostAction} (hh : s.host = .reset :: rest) :
    step s = .next (resetEvent { s with host := rest }) :=
  Faulted.step_eq_hostAct hh

/-- The reset event brings the registers to their reset values; the model's own fields stay. -/
theorem resetEvent_sameRegisters (s : State) :
    sameRegisters (resetEvent s)
      { State.reset with host := s.host, rdata := s.rdata, fresh := s.fresh } := rfl

/-- Settles O9: the map's value is a read of the element, which is 0; a reset event is one step. -/
theorem resetZeroesEveryRegister : Obligations.ResetZeroesEveryRegister := by
  refine ⟨fun idx => ?_, fun s rest hh =>
    ⟨_, step_reset hh, resetEvent_sameRegisters { s with host := rest }, rfl⟩⟩
  rw [Port.hostValue_eq_readElem, readElem_reset]
  rfl

end Sys2Proof.Proofs.Reset
end

section
/-! SUPPORT. The commands that read the constant tables (spec/43_tables.md rules R148, R149): the words
that decode to them, their two endings, and what they put in `RES`. -/

namespace Sys2Proof.Proofs.TableReads

open Sys2Proof Sys2Proof.Machine

/-! ### `TBL.ENC` (rule R148) -/

theorem decode_tblEnc {i : Nat} (hi : i < 2 ^ 32) :
    decode (assemble 0x18 0 i) = some (.tblEnc i) :=
  BigNum.decode_assemble (f := .A) (by decide) (by decide) hi rfl (by simp) (by simp)

theorem tblEnc_of_le {i : Nat} (h : i ≤ 1364) (s : State) :
    tblEnc i s = .ok { s with res := (romEnc i).setWidth 32 } :=
  if_pos (decide_eq_true h)

theorem tblEnc_of_gt {i : Nat} (h : 1364 < i) (s : State) :
    tblEnc i s = .raised (.fault .operandRange) s :=
  if_neg fun hlegal => absurd (of_decide_eq_true hlegal) (Nat.not_le.mpr h)

theorem exec_tblEnc_of_le {s : State} {i : Nat} (hf : s.status.fault = 0) (h : i ≤ 1364) :
    exec (.tblEnc i) s = .next { s with status := .zero, res := (romEnc i).setWidth 32 } :=
  command_ok hf (tblEnc_of_le h _)

theorem exec_tblEnc_of_gt {s : State} {i : Nat} (hf : s.status.fault = 0) (h : 1364 < i) :
    exec (.tblEnc i) s = .next { s with status := faultStatus 2 } :=
  command_raised hf (tblEnc_of_gt h _)

/-- Settles O25: a legal index ends with the word zero-extended, any other with the fault. -/
theorem tblEncReadsTheWord : Obligations.TblEncReadsTheWord :=
  ⟨fun _ hi => decode_tblEnc hi, fun _ _ hf =>
    ⟨fun hi => ⟨_, exec_tblEnc_of_le hf hi, BitVec.toNat_setWidth_of_le (by decide)⟩,
      fun hi => exec_tblEnc_of_gt hf hi⟩⟩

/-! ### `TBL.DEC` (rule R149) -/

theorem decode_tblDec {w : Nat} (hw : w < 2 ^ 32) :
    decode (assemble 0x19 0 w) = some (.tblDec w) :=
  BigNum.decode_assemble (f := .A) (by decide) (by decide) hw rfl (by simp) (by simp)

theorem tblDec_of_le {w : Nat} (h : w ≤ 8191) (s : State) :
    tblDec w s = .ok { s with res := decResult (BitVec.ofNat 13 w) } :=
  if_pos (decide_eq_true h)

theorem tblDec_of_gt {w : Nat} (h : 8191 < w) (s : State) :
    tblDec w s = .raised (.fault .operandRange) s :=
  if_neg fun hlegal => absurd (of_decide_eq_true hlegal) (Nat.not_le.mpr h)

theorem exec_tblDec_of_le {s : State} {w : Nat} (hf : s.status.fault = 0) (h : w ≤ 8191) :
    exec (.tblDec w) s =
      .next { s with status := .zero, res := decResult (BitVec.ofNat 13 w) } :=
  command_ok hf (tblDec_of_le h _)

theorem exec_tblDec_of_gt {s : State} {w : Nat} (hf : s.status.fault = 0) (h : 8191 < w) :
    exec (.tblDec w) s = .next { s with status := faultStatus 2 } :=
  command_raised hf (tblDec_of_gt h _)

theorem decResult_of_none {w : Char13} (h : romDec w = none) : decResult w = 0x800007FF := by
  rw [decResult, h]

/-- Index and FCS bit do not overlap: an index lies below bit 16. -/
theorem decResult_of_some {w : Char13} {i : Nat} (h : romDec w = some i) :
    (decResult w).toNat = i + 65536 * (romFcs w).toNat := by
  have hi : i ≤ 1364 := (Tables.eq_of_romDec h).1
  have hbit : (romFcs w).toNat < 2 := (romFcs w).isLt
  have hindex : (BitVec.ofNat 32 i).toNat = i := Nat.mod_eq_of_lt (by omega)
  have hshift : ((romFcs w).setWidth 32 <<< 16).toNat = 2 ^ 16 * (romFcs w).toNat := by
    rw [BitVec.toNat_shiftLeft, BitVec.toNat_setWidth_of_le (by decide), Nat.shiftLeft_eq]
    omega
  rw [decResult, h]
  calc (BitVec.ofNat 32 i ||| (romFcs w).setWidth 32 <<< 16).toNat
      = 2 ^ 16 * (romFcs w).toNat ||| i := by rw [BitVec.toNat_or, hindex, hshift, Nat.or_comm]
    _ = 2 ^ 16 * (romFcs w).toNat + i := (Nat.two_pow_add_eq_or_of_lt (by omega) _).symm
    _ = i + 65536 * (romFcs w).toNat := Nat.add_comm ..

/-- Settles O26: the endings of the command, and `RES` by `decResult_of_some` and
`decResult_of_none`. -/
theorem tblDecReadsIndexAndBit : Obligations.TblDecReadsIndexAndBit :=
  ⟨fun _ hw => decode_tblDec hw, fun _ _ hf =>
    ⟨fun hw => ⟨_, exec_tblDec_of_le hf hw, fun _ hdec => decResult_of_some hdec,
        fun hdec => decResult_of_none hdec⟩,
      fun hw => exec_tblDec_of_gt hf hw⟩⟩

end Sys2Proof.Proofs.TableReads
end

section
/-! SUPPORT. The swap of `A` and `D` (spec/44_layout.md rule R167), and how parsing, emitting and the
swap of a string relate in a bijective layout (rule R168). -/

namespace Sys2Proof.Proofs.SymbolLaws

open Sys2Proof Sys2Proof.Machine

/-! ### `SYM.FLIP` (rule R167) -/

theorem swapAD_symA : swapAD symA = symD := if_pos rfl

theorem swapAD_symD : swapAD symD = symA := (if_neg (by decide)).trans (if_pos rfl)

theorem swapAD_of_ne {b : Byte} (hA : b ≠ symA) (hD : b ≠ symD) : swapAD b = b := by
  rw [swapAD, if_neg hA, if_neg hD]

theorem flipSym_below {len : BitVec 7} {sym : Vector Byte 66} {p : Fin 66} (h : p.val < len.toNat) :
    (FullDecoder.flipSym len sym)[p] = swapAD sym[p] := by
  rw [FullDecoder.flipSym, Fin.getElem_fin, Vector.getElem_ofFn, if_pos h]

theorem flipSym_from {len : BitVec 7} {sym : Vector Byte 66} {p : Fin 66} (h : len.toNat ≤ p.val) :
    (FullDecoder.flipSym len sym)[p] = sym[p] := by
  rw [FullDecoder.flipSym, Fin.getElem_fin, Vector.getElem_ofFn, if_neg (Nat.not_lt.mpr h)]

theorem exec_symFlip {s : State} (hf : s.status.fault = 0) :
    exec .symFlip s =
      .next { s with status := .zero, sym := FullDecoder.flipSym s.len s.sym } :=
  command_ok hf (FullDecoder.symFlip_eq { s with status := .zero })

/-- Settles O32: the entries below `LEN` are swapped byte by byte, and `flipSym_flipSym` undoes it. -/
theorem symFlipIsItsOwnInverse : Obligations.SymFlipIsItsOwnInverse := by
  refine ⟨by decide, fun s hf => ⟨_, exec_symFlip hf, fun p hp => ?_, fun p hp => flipSym_from hp, ?_⟩⟩
  · rw [flipSym_below hp]
    exact ⟨fun hA => (congrArg swapAD hA).trans swapAD_symA,
      fun hD => (congrArg swapAD hD).trans swapAD_symD, fun hA hD => swapAD_of_ne hA hD⟩
  · rw [exec_symFlip rfl, FullDecoder.flipSym_flipSym]

/-! ### Parsing and emitting (rules R165, R166, R168) -/

/-- `SYM.PARSE` of 65 symbols gathers them. -/
theorem symParse_of_allSyms (L : Layout) {s : State} (hlen : s.len = 65) (hsym : allSyms (sym65 s)) :
    symParse L s = .ok { s with w := gather L (sym65 s) } := by
  rcases symParse_cases L s with ⟨-, -, hrun⟩ | ⟨hne, -⟩ | ⟨-, hbad, -⟩
  · exact hrun
  · exact absurd hlen hne
  · exact absurd (((Symbols.allSymbols_iff_allSyms s).mpr hsym).symm.trans hbad) (by decide)

/-- What was emitted parses to the words it was emitted from. -/
theorem emit_then_parse {L : Layout} (hL : L.Bijective) (s : State) :
    ∃ t, (symEmit L s).andThen (symParse L) = .ok t ∧ t.w = s.w := by
  have hemit : ∃ u : State, symEmit L s = .ok u ∧ u.len = 65 ∧ sym65 u = render L s.w :=
    ⟨_, rfl, rfl, sym65_of_bufferOf rfl⟩
  obtain ⟨u, hrun, hlen, hsym⟩ := hemit
  have hall : allSyms (sym65 u) := by
    rw [hsym]
    exact Symbols.allSyms_render L s.w
  refine ⟨_, by rw [hrun, Run.andThen_ok, symParse_of_allSyms L hlen hall], ?_⟩
  rw [hsym, Symbols.gather_render hL]

/-- What was parsed emits the 65 symbols it was parsed from. -/
theorem parse_then_emit {L : Layout} (hL : L.Bijective) {s : State} (hlen : s.len = 65)
    (hsym : allSyms (sym65 s)) :
    ∃ t, (symParse L s).andThen (symEmit L) = .ok t ∧ sym65 t = sym65 s := by
  refine ⟨_, by rw [symParse_of_allSyms L hlen hsym, Run.andThen_ok, symEmit], ?_⟩
  exact (sym65_of_bufferOf rfl).trans (Symbols.render_gather hL ((Symbols.allSyms_iff _).mp hsym))

/-- The statements' swap of a string is the swap of each of its bytes. -/
theorem swapped_getElem (str : Vector Byte 65) (p : Fin 65) : (swapped str)[p] = swapAD str[p] := by
  rw [swapped, Fin.getElem_fin, Vector.getElem_ofFn]
  rfl

/-- Settles O33: the two round trips, and the swap exchanges the halves of every byte. -/
theorem parseAndEmitAreInverse : Obligations.ParseAndEmitAreInverse := by
  refine fun L hL => ⟨emit_then_parse hL, fun s => parse_then_emit hL, fun str _ p => ?_⟩
  rw [Symbols.gather_desc hL, Symbols.gather_asc hL, Symbols.gather_desc hL, Symbols.gather_asc hL,
    swapped_getElem]
  exact ⟨dhalf_swapAD _, ahalf_swapAD _⟩

end Sys2Proof.Proofs.SymbolLaws
end

section
/-! SUPPORT. `PAY.VALIDATE` (spec/45_payload.md rules R181, R182). -/

namespace Sys2Proof.Proofs.Validate

open Sys2Proof Sys2Proof.Machine

/-- An invalid record is reported with the code of its first failing condition. -/
theorem payValidate_of_invalid {s : State} (h : ¬ validRecord s.record) :
    ∃ e : ValReason, payValidate s = .raised (.validation e) s ∧ e.code = firstFailure s.record := by
  rcases payValidate_cases s with ⟨hnone, -⟩ | ⟨e, he, hrun⟩
  · exact absurd ((Encoder.validation_eq_none_iff _).mp hnone) h
  · refine ⟨e, hrun, ?_⟩
    rw [← Pack.reportCode_validation, he]
    rfl

/-- Settles O34: a valid record passes every test, an invalid one raises its first failure. -/
theorem validateReportsTheFirstFailure : Obligations.ValidateReportsTheFirstFailure := by
  refine ⟨by decide, fun s hf => ⟨fun hvalid => ?_, fun hinvalid => ?_⟩⟩
  · exact command_ok (body := payValidate) hf
      (Pack.payValidate_of_valid (s := { s with status := .zero }) hvalid)
  · obtain ⟨e, hrun, hcode⟩ := payValidate_of_invalid (s := { s with status := .zero }) hinvalid
    rw [← hcode]
    exact command_raised (body := payValidate) hf hrun

end Sys2Proof.Proofs.Validate
end
